-- ==== Sys2Proof/Word.lean ====
section
/-! DEFINITION. The words of the codec: 8-bit bytes on every port and in both buffers (R55), 16-bit timestamps (R7 `TS_W`), 7-bit timestamp-low values (R72). -/
namespace Sys2Proof

/-- A byte of either frame buffer or of a port (R8, R55). -/
abbrev Byte := BitVec 8

/-- A timestamp or the high-order accumulator: `TS_W` = 16 bits (R7, R22, R24). -/
abbrev Stamp := BitVec 16

/-- A timestamp-low value: 7 bits (R72). -/
abbrev StampLow := BitVec 7

/-- A timestamp-high value of a framing byte: 6 bits (R71). -/
abbrev StampHigh := BitVec 6

/-- The channel of a channel-voice status byte: bits 3 to 0 (R73). -/
abbrev Channel := BitVec 4

end Sys2Proof
end

