-- ==== Sys2Proof/Config.lean ====
section
/-! DEFINITION. What an implementation fixes: the constants of R7 and R33, the OPEN parameters of R7 (opaque: no value is picked), and the values that R41 and R230 leave unspecified after RESET (opaque free values). -/
namespace Sys2Proof

/-- `HDR_DEFAULT` = 0x80 (R33): the header of every decoded event and bytes 0 and 1 of every outbound frame. -/
def Config.hdrDefault : Byte := 0x80#8

/-- `MIN_LEN` = 3, the minimum frame length (R7, R101). -/
def Config.minLen : Nat := 3

/-- `TX_LEN` = 5, the outbound frame length (R7, R173). -/
def Config.txLen : Nat := 5

/-- One full low-counter cycle, 128 (R108). -/
def Config.lowCycle : Stamp := 128#16

/-- The OPEN parameters of R7, which "the model takes ... as an argument": a field of State that no step changes.
Opaque identifiers are natural numbers below 2 to their width (log 6, log 12). -/
structure Params where
  /-- `LEN_MAX`: the largest inbound frame length (R7). -/
  lenMax   : Nat
  /-- `TARGET_W`: the width of the consumer's target handle (R7, R32). -/
  targetW  : Nat
  /-- `CONN_W`: the width of a connection identifier (R7, R34). -/
  connW    : Nat
  /-- `CONN_NONE`: the sentinel that means "no connection", if the transport has one (R7, R188). -/
  connNone : Option Nat
  /-- `CHAN_W`: the width of the outbound channel identifier (R7, R35). -/
  chanW    : Nat
  /-- `CHAN_OUT`: the designated outbound channel (R7, R35). -/
  chanOut  : Nat
deriving DecidableEq, Repr

/-- The constraints of 92_eei_decisions.md "Open parameters, gathered": `LEN_MAX` at least 5, the widths of
the handle and of the connection identifier at least 1, and constants that fit their widths. -/
abbrev Params.wf (p : Params) : Prop :=
  5 ≤ p.lenMax ∧ 1 ≤ p.targetW ∧ 1 ≤ p.connW ∧ (∀ c ∈ p.connNone, c < 2 ^ p.connW) ∧ p.chanOut < 2 ^ p.chanW

/-- `LEN_MAX` - 5: OPEN (R7, D2). -/
opaque Config.lenMaxAboveFive : Nat
/-- `TARGET_W` - 1: OPEN (R7, D16). -/
opaque Config.targetWAboveOne : Nat
/-- `CONN_W` - 1: OPEN (R7, D17). -/
opaque Config.connWAboveOne : Nat
/-- `CONN_NONE` before it is cut to `CONN_W` bits: OPEN (R7, D17). -/
opaque Config.connNoneRaw : Option Nat
/-- `CHAN_W`: OPEN (R7, D18). -/
opaque Config.chanW : Nat
/-- `CHAN_OUT` before it is cut to `CHAN_W` bits: OPEN (R7, D18). -/
opaque Config.chanOutRaw : Nat

/-- The parameters of the codec as it stands after reset: nothing is known of them but the spec's constraints. -/
def Config.params : Params where
  lenMax   := Config.lenMaxAboveFive + 5
  targetW  := Config.targetWAboveOne + 1
  connW    := Config.connWAboveOne + 1
  connNone := Config.connNoneRaw.map (fun c => c % 2 ^ (Config.connWAboveOne + 1))
  chanW    := Config.chanW
  chanOut  := Config.chanOutRaw % 2 ^ Config.chanW

/-- One value for each register that RESET leaves unspecified (R41, R230). -/
structure Unspecified where
  target    : Nat
  tsHigh    : Stamp
  tsLowPrev : StampLow
  tsLowSeen : Bool
  ts        : Stamp
  d1        : Byte
  d2        : Byte
  cursor    : Nat
  tx0       : Byte
  tx1       : Byte
  tx2       : Byte
  tx3       : Byte
  tx4       : Byte
deriving DecidableEq, Repr, Inhabited

/-- FREE VALUES: what the n-th RESET leaves in the registers R230 calls unspecified (93_implementation_defined.md
U11, "any value"). No body: nothing can be proved of the values (log 8). -/
opaque Config.unspecified : Nat → Unspecified

end Sys2Proof
end

