-- ==== Sys2Proof/Syntax.lean ====
section
/-! DEFINITION. The instructions: one constructor per row of spec/opcode_table.json, with the operands its byte carries. -/
namespace Sys2Proof

/-- One row of the opcode table each. A status message carries the channel bits of its status byte (R73, R77); its
data bytes are read at the cursor when it executes, because they may be missing (R116, R117). -/
inductive Instr where
  -- two data bytes (R130)
  | noteOff (ch : Channel)
  | noteOn (ch : Channel)
  | polyPressure (ch : Channel)
  | controlChange (ch : Channel)
  | pitchBend (ch : Channel)
  | songPosition
  -- one data byte (R140)
  | programChange (ch : Channel)
  | channelPressure (ch : Channel)
  | timeCode
  | songSelect
  -- no data byte (R150)
  | tuneRequest
  | clock
  | start
  | continueMsg
  | stop
  | activeSensing
  | sysReset
  -- unrecognised status values (R160)
  | sysexStart
  | undefF4
  | undefF5
  | sysexEnd
  | undefF9
  | undefFD
  /-- The byte at offset 0: its two unchecked leading bits and the timestamp-high (R71, R84). -/
  | frame (mark : BitVec 2) (th : StampHigh)
  /-- A timestamp byte: its timestamp-low (R72). -/
  | ts (tl : StampLow)
  /-- A message under running status, beginning at a byte with bit 7 clear; `d` is that byte whole (R74, R91, R112). -/
  | run (d : Byte)
  /-- The host operation SEND with its three operands (R79, R93, R170). -/
  | send (command d1 d2 : Byte)
deriving DecidableEq, Repr

end Sys2Proof
end

