-- ==== Sys2Proof/Machine/State.lean ====
section
/-! DEFINITION. The codec's state as plain data: every register and flag of 10_state.md, the inputs and parameters of the step (R40), and the model's own bookkeeping fields; the reasons a step can stop; the state after reset. -/
namespace Sys2Proof.Machine

/-- A byte-addressed buffer: offsets and bytes, offsets strictly rising, no entry equal to 0x00, which is what an
unlisted offset reads as (log 10). -/
abbrev Memory := List Host.Cell

/-- Where the Decoder stands in an invocation; read only while `decBusy` is set. It stands for the position in the
pseudocode of R123 and for the value it calls `i0` (log 3). While an event is outstanding it is held with the cursor at what
it was when `Emit()` was reached (R118). -/
inductive Phase where
  /-- The entry checks have passed; the framing byte is next (R104). -/
  | framing
  /-- The loop test of an iteration is next; step 1 has consumed nothing of it (R106, R107). -/
  | iterStart
  /-- Step 1 has consumed a timestamp byte of this iteration; the status look-ahead is next, or, while an event is outstanding,
  the statement after `Emit()` (R111, R214). -/
  | lookAhead
  /-- The walk has ended, or never started; the end-of-invocation step is next (R122). -/
  | walkEnded
deriving DecidableEq, Repr

/-- The event record (R36), in the source's order of fields. -/
structure Event where
  header    : Byte
  timestamp : Stamp
  command   : Byte
  data1     : Byte
  data2     : Byte
deriving DecidableEq, Repr

/-- One transaction that the codec presents at a port (R191). -/
inductive Output where
  /-- EVENT, the consumer port: the target, the event and the sideband bit `data_ok` (R118, R186). -/
  | event (target : Nat) (e : Event) (dataOk : Bool)
  /-- The completion of a DECODE request (R187). -/
  | decodeDone
  /-- NOTIFY: `Submit(c, ch, tx, n)` with its bytes (R189). -/
  | notify (conn channel : Nat) (bytes : List Byte) (n : Nat)
  /-- The response of a SEND request (R176, R190). -/
  | sendResult (ok : Bool)
deriving DecidableEq, Repr

/-- What a host agent does at one moment (R191, R193), or a moment left to the codec. -/
inductive Input where
  /-- No host acts: whatever is in progress moves (log 4). -/
  | turn
  /-- The RESET request (R194). -/
  | reset
  /-- The REGISTER request with its target handle (R185). -/
  | register (target : Nat)
  /-- The DECODE request: the bytes the transport provides and the length it states (R187). -/
  | decode (bytes : List Byte) (len : Nat)
  /-- The SEND request (R190). -/
  | send (command d1 d2 : Byte)
  /-- The transport changes what its connection accessor answers (R34, R193). -/
  | connection (c : Option Nat)
  /-- The transport writes a byte of its frame buffer (R65, R241). -/
  | bufferByte (offset : Nat) (b : Byte)
  /-- The transport changes the length of the frame (R65, R241). -/
  | bufferLength (n : Nat)
deriving DecidableEq, Repr

/-- Everything the spec gives the codec, and what the step relation reads. -/
structure State where
  /-- The OPEN parameters (R7); no step changes them. -/
  params     : Params
  /-- Running status (R21). -/
  rs         : Byte
  /-- A consumer is registered (R31). -/
  consReg    : Bool
  /-- The registered target handle (R32). -/
  consTarget : Nat
  /-- A DECODE is in progress (R29). -/
  decBusy    : Bool
  /-- The high-order timestamp accumulator (R22). -/
  tsHigh     : Stamp
  /-- The previous timestamp-low value (R23). -/
  tsLowPrev  : StampLow
  /-- A timestamp byte has been consumed in this invocation (R28). -/
  tsLowSeen  : Bool
  /-- The current timestamp (R24). -/
  ts         : Stamp
  /-- The data1 holding register (R25). -/
  d1         : Byte
  /-- The data2 holding register (R26). -/
  d2         : Byte
  /-- The decode cursor (R27). -/
  i          : Nat
  /-- The outbound frame buffer, offsets 0 to 4 (R37); between SENDs it keeps the bytes of the last one (log 24). -/
  tx         : Memory
  /-- The inbound frame buffer of the current invocation, offsets 0 to `len` - 1 (R38, R50); the transport's. -/
  buf        : Memory
  /-- The length `L` of the current invocation (R50); the transport's. -/
  len        : Nat
  /-- What the transport's accessor holds: nothing, or an identifier that may be the sentinel (R34, R188). -/
  conn       : Option Nat
  /-- The model's own: the Decoder's place in the invocation. -/
  phase      : Phase
  /-- The model's own: an event has been presented and the consumer has not returned (R118). -/
  inCallback : Bool
  /-- The model's own: what the hosts do, in order, and the codec's moves between (R191, R192). -/
  inputs     : List Input
  /-- The model's own: the transactions presented so far, oldest first; no step reads it (log 13). -/
  outputs    : List Output
  /-- The model's own: how many RESETs have drawn free values (log 8). -/
  freeCount  : Nat
deriving DecidableEq, Repr

/-- Why a step stops with a fault. The codec itself raises none (R200). -/
inductive Fault where
  /-- Raised by a step that would read the framing byte of a frame of length 0: `MemRead` is defined only below `L`
  (R52). No run reaches such a state (R101). Safe. -/
  | readOutsideFrame
deriving DecidableEq, Repr

/-- Why a step is refused: a request that breaks a host duty "has no meaning in this spec" (R247), and a request that its
port cannot carry. All are safe: the model makes no move. -/
inductive Refusal where
  /-- Raised by exec for an instruction that has no meaning yet; none is left. Safe. -/
  | notModelled (mnemonic : String)
  /-- Raised by a DECODE request while `decBusy` is set (R238). Safe. -/
  | decodeWhileBusy
  /-- Raised by a REGISTER request while `decBusy` is set (R239). Safe. -/
  | registerWhileBusy
  /-- Raised by a RESET request while `decBusy` is set (R233, R239). Safe. -/
  | resetWhileBusy
  /-- Raised by a DECODE request whose length is above `LEN_MAX` (R50, R193). Safe. -/
  | frameTooLong
  /-- Raised by a DECODE request that provides fewer readable bytes than its length (R51, R241). Safe. -/
  | frameNotReadable
  /-- Raised when the transport alters the frame or its length during a DECODE (R65, R241). Safe. -/
  | frameChanged
  /-- Raised by a REGISTER request whose handle does not fit `TARGET_W` bits (R185, R191). Safe. -/
  | targetTooWide
  /-- Raised when the transport reports an identifier that does not fit `CONN_W` bits (R34, R191). Safe. -/
  | connTooWide
deriving DecidableEq, Repr

/-- Right after RESET: `rs`, `consReg` and `decBusy` are zero (R230); every register that R41 leaves unspecified holds
zero (log 7); the codec is idle and no host has acted. -/
def State.reset : State where
  params     := Config.params
  rs         := 0#8
  consReg    := false
  consTarget := 0
  decBusy    := false
  tsHigh     := 0#16
  tsLowPrev  := 0#7
  tsLowSeen  := false
  ts         := 0#16
  d1         := 0#8
  d2         := 0#8
  i          := 0
  tx         := []
  buf        := []
  len        := 0
  conn       := none
  phase      := .walkEnded
  inCallback := false
  inputs     := []
  outputs    := []
  freeCount  := 0

end Sys2Proof.Machine
end

