-- ==== Sys2Proof/Machine/Memory.lean ====
section
/-! DEFINITION. The two byte buffers of 20_memory.md as lists of cells in one canonical form: reading, writing, filling from a list of bytes, and `MemRead` with its domain. -/
namespace Sys2Proof.Machine

/-- What an offset that no entry lists reads as (log 10). -/
def Memory.unlisted : Byte := 0#8

/-- The canonical form: offsets strictly rising, no entry equal to what an unlisted offset reads as. -/
abbrev Memory.wf (m : Memory) : Prop :=
  m.Pairwise (fun c d => c.1 < d.1) ∧ ∀ c ∈ m, c.2 ≠ Memory.unlisted

/-- The byte at an offset. -/
def Memory.read (m : Memory) (a : Nat) : Byte :=
  match m with
  | []          => Memory.unlisted
  | (k, v) :: r => if k = a then v else Memory.read r a

/-- An entry put in front, unless the byte is the one an unlisted offset reads as. -/
def Memory.push (a : Nat) (v : Byte) (m : Memory) : Memory :=
  if v = Memory.unlisted then m else (a, v) :: m

/-- One byte written, the canonical form kept. -/
def Memory.write (m : Memory) (a : Nat) (v : Byte) : Memory :=
  match m with
  | []          => Memory.push a v []
  | (k, w) :: r =>
    if a < k then Memory.push a v ((k, w) :: r)
    else if a = k then Memory.push a v r
    else (k, w) :: Memory.write r a v

/-- The bytes of a list at consecutive offsets from `a`. -/
def Memory.ofBytesFrom (a : Nat) : List Byte → Memory
  | []      => []
  | b :: bs => Memory.push a b (Memory.ofBytesFrom (a + 1) bs)

/-- A buffer that holds a list of bytes from offset 0 (R50). -/
def Memory.ofBytes (bs : List Byte) : Memory := Memory.ofBytesFrom 0 bs

/-- The bytes at offsets 0 to `n` - 1, in order. -/
def Memory.bytes (m : Memory) (n : Nat) : List Byte := (List.range n).map m.read

/-- `MemRead(addr, 1)`: the byte at an offset of the inbound frame, defined only below `L` (R9, R52). -/
def memRead (s : State) (a : Nat) : Option Byte := if a < s.len then some (s.buf.read a) else none

/-- `MemWrite(addr, 1, v)`: one byte of the outbound frame buffer (R9, R58). -/
def memWrite (tx : Memory) (a : Nat) (v : Byte) : Memory := tx.write a v

end Sys2Proof.Machine
end

