-- ==== Sys2Proof/Machine/Operands.lean ====
section
/-! DEFINITION. Operand forms: the arity of a status byte (R81), which says how many data bytes follow, and the tests that they are there. -/
namespace Sys2Proof.Machine

/-- The last column of R80. -/
inductive Arity where
  | two
  | one
  | zero
  | other
deriving DecidableEq, Repr

/-- `Arity` of a system code, by its low nibble (R80, R82). -/
def arityOfSystem (low : BitVec 4) : Arity :=
  match low with
  | 0x2#4 => .two
  | 0x1#4 | 0x3#4 => .one
  | 0x6#4 | 0x8#4 | 0xA#4 | 0xB#4 | 0xC#4 | 0xE#4 | 0xF#4 => .zero
  | _ => .other

/-- `Arity(s)`, total: on the status nibble when it is 0x8 to 0xE, on the whole byte when it is 0xF, and `other` for a
value with bit 7 clear (R81, R86). -/
def arity (s : Byte) : Arity :=
  match s.extractLsb' 4 4 with
  | 0x8#4 | 0x9#4 | 0xA#4 | 0xB#4 | 0xE#4 => .two
  | 0xC#4 | 0xD#4 => .one
  | 0xF#4 => arityOfSystem (s.extractLsb' 0 4)
  | _ => .other

/-- Two more bytes are available at the cursor, `i + 1 < L` (R130). -/
def twoAvailable (s : State) : Bool := decide (s.i + 1 < s.len)

/-- One more byte is available at the cursor, `i < L` (R140). -/
def oneAvailable (s : State) : Bool := decide (s.i < s.len)

end Sys2Proof.Machine
end

