-- ==== Sys2Proof/Machine/Flags.lean ====
section
/-! DEFINITION. Every one-bit computation: the data-byte validator (R89), the wrap-around test (R107), the timestamp update that sets `tsLowSeen` (R108, R109), the sideband `data_ok` (R89). -/
namespace Sys2Proof.Machine

/-- `IsHigh(b)`: bit 7 of a byte (R89). -/
def isHigh (b : Byte) : Bool := b.msb

/-- The wrap-around condition: a timestamp-low was seen before in this invocation and the new one is not above it,
unsigned on 7 bits, equality included (R107, R124 d). -/
def wraps (s : State) (low : StampLow) : Bool := s.tsLowSeen && decide (low ≤ s.tsLowPrev)

/-- The accumulator after a timestamp byte: one low-counter cycle more on a wrap, modulo 65536 (R108). -/
def nextTsHigh (s : State) (low : StampLow) : Stamp :=
  if wraps s low then s.tsHigh + Config.lowCycle else s.tsHigh

/-- `data_ok`: every data byte that the category populates has bit 7 clear (R89, D13). A category that populates none
leaves it 1. -/
def dataOk (a : Arity) (d1 d2 : Byte) : Bool :=
  match a with
  | .zero  => true
  | .one   => !isHigh d1
  | .two   => !isHigh d1 && !isHigh d2
  | .other => true

end Sys2Proof.Machine
end

