-- ==== Sys2Proof/Machine/Ops.lean ====
section
/-! DEFINITION. The shared operations: the call-out to the consumer and its return (R118, R213, R214; the codec has no exception entry, R200), the running-status tracker, the four dispatch rules of step 3 up to the delivery of their event, step 2, the framing and timestamp bytes, the submission of an outbound frame. -/
namespace Sys2Proof.Machine

/-! ### Leaving the walk, moving the cursor -/

/-- `EndWalk`: the walk is left, the end-of-invocation step comes next (R9). -/
def endWalk (s : State) : State := { s with phase := .walkEnded }

/-- The cursor moves on by `n` and the iteration is over (R105, R115). -/
def endIteration (n : Nat) (s : State) : State := { s with i := s.i + n, phase := .iterStart }

/-! ### The call-out to the consumer -/

/-- The event built from the current registers (R36, R118). -/
def eventOf (s : State) : Event where
  header    := Config.hdrDefault
  timestamp := s.ts
  command   := s.rs
  data1     := s.d1
  data2     := s.d2

/-- The delivery of `Emit()`: the event goes to the consumer port with the target and the sideband bit, and the Decoder
waits for the consumer (R118). No register of the Decoder changes, the cursor and the phase included: they are held until
the consumer returns (R213). -/
def emit (s : State) : State :=
  { s with
    outputs    := s.outputs ++ [.event s.consTarget (eventOf s) (dataOk (arity s.rs) s.d1 s.d2)]
    inCallback := true }

/-- The stall test of R158, after the consumer of a zero-data message has returned: the walk ends when step 1 consumed nothing
of this iteration; otherwise the iteration is over with the cursor unchanged. -/
def stallTest (s : State) : State := if s.phase = .iterStart then endWalk s else endIteration 0 s

/-- The statement after `Emit()` in the arm of R123 that emitted (R214): `rs` is held while the consumer runs, so its arity
names the arm (R115). An unrecognised status has no `Emit()`; no run has an event outstanding under one. -/
def afterEmit (s : State) : State :=
  match arity s.rs with
  | .two   => endIteration 2 s
  | .one   => endIteration 1 s
  | .zero  => stallTest s
  | .other => s

/-- The consumer returns, no value; nothing is restored because nothing was saved, and the walk resumes at the statement after
`Emit()` (R118, R213, R214). -/
def consumerReturns (s : State) : State := afterEmit { s with inCallback := false }

/-! ### Step 1: framing byte, timestamp byte, status byte -/

/-- The framing byte extractor and the initialisation of the invocation registers (R103, R104). -/
def framingByte (th : StampHigh) (s : State) : State :=
  { s with
    tsHigh    := th.setWidth 16 <<< 7
    ts        := th.setWidth 16 <<< 7
    tsLowPrev := 0#7
    tsLowSeen := false
    d1        := 0x00#8
    d2        := 0x00#8
    i         := 1
    phase     := .iterStart }

/-- Step 1 on a timestamp byte: accumulator, previous low, timestamp, cursor (R107 to R110). -/
def timestampByte (low : StampLow) (s : State) : State :=
  { s with
    tsHigh    := nextTsHigh s low
    tsLowPrev := low
    tsLowSeen := true
    ts        := nextTsHigh s low + low.setWidth 16
    i         := s.i + 1
    phase     := .lookAhead }

/-- The running-status tracker takes a new status byte (R111); step 1 has then consumed bytes of this iteration. -/
def loadStatus (st : Byte) (s : State) : State := { s with rs := st, i := s.i + 1, phase := .lookAhead }

/-! ### Step 3: the four dispatch rules, with `b` the byte at the cursor -/

/-- Two-data-byte dispatch up to the delivery; `i <- i + 2` is what `consumerReturns` resumes at (R130, R116). -/
def twoDataDispatch (b : Byte) (s : State) : State :=
  if twoAvailable s then emit { s with d1 := b, d2 := s.buf.read (s.i + 1) } else endWalk s

/-- One-data-byte dispatch up to the delivery; `d2` lingers; `i <- i + 1` is what `consumerReturns` resumes at (R140, R117). -/
def oneDataDispatch (b : Byte) (s : State) : State :=
  if oneAvailable s then emit { s with d1 := b } else endWalk s

/-- Zero-data-byte dispatch up to the delivery; `d1` and `d2` linger; the stall test is what `consumerReturns` resumes at (R150,
R158). -/
def zeroDataDispatch (s : State) : State := emit s

/-- Skip dispatch: one byte, no event, no read, no bound test (R160). -/
def skipDispatch (s : State) : State := endIteration 1 s

/-- Steps 2 and 3 under the running status in force, with `b` the byte at the cursor: the walk ends when running status was
never established, otherwise dispatch on `Arity(rs)` (R112, R113, R114). -/
def carryOver (b : Byte) (s : State) : State :=
  if s.rs = 0x00#8 then endWalk s
  else
    match arity s.rs with
    | .two   => twoDataDispatch b s
    | .one   => oneDataDispatch b s
    | .zero  => zeroDataDispatch s
    | .other => skipDispatch s

/-- An iteration whose timestamp byte was the last byte of the frame: no look-ahead is made, no byte is read, and steps 2
and 3 run with `i == L` (R111, R208). No data byte is available there, so the byte passed is not used. -/
def carryOverAtEnd (s : State) : State := carryOver Memory.unlisted s

/-! ### New status messages: the status byte and then its data at the cursor -/

/-- A status byte of arity 2 (R111, R130). -/
def twoDataMessage (st : Byte) (s : State) : State :=
  twoDataDispatch (s.buf.read (s.i + 1)) (loadStatus st s)

/-- A status byte of arity 1 (R111, R140). -/
def oneDataMessage (st : Byte) (s : State) : State :=
  oneDataDispatch (s.buf.read (s.i + 1)) (loadStatus st s)

/-- A status byte of arity 0 (R111, R150). -/
def zeroDataMessage (st : Byte) (s : State) : State := zeroDataDispatch (loadStatus st s)

/-- A status byte of no category (R111, R160). -/
def skipMessage (st : Byte) (s : State) : State := skipDispatch (loadStatus st s)

/-! ### The end of an invocation -/

/-- The end-of-invocation step: running status is zeroed, the Decoder is idle, the transport has its frame back (R122,
R50). -/
def endInvocation (s : State) : State :=
  { s with
    rs      := 0x00#8
    decBusy := false
    buf     := []
    len     := 0
    phase   := .walkEnded
    outputs := s.outputs ++ [.decodeDone] }

/-! ### The Encoder's primitives -/

/-- `ConnLookup()`: the sentinel answer is the answer none (R172, R188). -/
def connLookup (s : State) : Option Nat :=
  match s.conn with
  | none   => none
  | some c => if s.params.connNone = some c then none else some c

/-- The command selector: the identity (R178). -/
def commandSelector (command : Byte) : Byte := command

/-- The status/data serializer: the five bytes of the outbound frame (R173). -/
def serializedFrame (command d1 d2 : Byte) (tx : Memory) : Memory :=
  memWrite (memWrite (memWrite (memWrite (memWrite tx 0 Config.hdrDefault) 1 Config.hdrDefault)
    2 (commandSelector command)) 3 d1) 4 d2

/-- The outbound buffer filled for one SEND (R173). DESIGN CHOICE (log 24): the five bytes stay in `tx` after the SEND, until
the next SEND or RESET; the spec's `tx` exists only during one SEND (R37, R170), and nothing reads it after. -/
def serialize (command d1 d2 : Byte) (s : State) : State := { s with tx := serializedFrame command d1 d2 s.tx }

/-- `Submit(c, CHAN_OUT, tx, 5)` (R174, R189). -/
def submit (c : Nat) (s : State) : State :=
  { s with outputs := s.outputs ++ [.notify c s.params.chanOut (s.tx.bytes Config.txLen) Config.txLen] }

/-- The result of a SEND goes back to the caller (R176, R190). -/
def sendResult (ok : Bool) (s : State) : State := { s with outputs := s.outputs ++ [.sendResult ok] }

end Sys2Proof.Machine
end

