-- ==== Sys2Proof/Machine/Framing.lean ====
section
/-! DEFINITION. The framing byte, the timestamp byte and the message under running status (40_decoder_walk.md). -/
namespace Sys2Proof.Machine

/-- FRAME: bits 7 and 6 are read and discarded, the timestamp-high seeds the accumulator (R104, R84, SC10). -/
def execFrame (_mark : BitVec 2) (th : StampHigh) (s : State) : Host.Outcome State Fault Refusal :=
  .next (framingByte th s)

/-- TS: step 1 on a timestamp byte; the status look-ahead is the next instruction (R107 to R110). -/
def execTs (tl : StampLow) (s : State) : Host.Outcome State Fault Refusal := .next (timestampByte tl s)

/-- RUN: a message that begins at data byte `d` under the running status in force (R112 to R114, R92). -/
def execRun (d : Byte) (s : State) : Host.Outcome State Fault Refusal := .next (carryOver d s)

end Sys2Proof.Machine
end

