-- ==== Sys2Proof/Machine/OneData.lean ====
section
/-! DEFINITION. The four one-data-byte messages (42_one_data_messages.md). -/
namespace Sys2Proof.Machine

/-- PROGRAM_CHANGE, status 0xC0 + channel (R141). -/
def execProgramChange (ch : Channel) (s : State) : Host.Outcome State Fault Refusal :=
  .next (oneDataMessage (0xC#4 ++ ch) s)

/-- CHANNEL_PRESSURE, status 0xD0 + channel (R142). -/
def execChannelPressure (ch : Channel) (s : State) : Host.Outcome State Fault Refusal :=
  .next (oneDataMessage (0xD#4 ++ ch) s)

/-- TIME_CODE, status 0xF1; the data byte is not split (R143). -/
def execTimeCode (s : State) : Host.Outcome State Fault Refusal := .next (oneDataMessage 0xF1#8 s)

/-- SONG_SELECT, status 0xF3 (R144). -/
def execSongSelect (s : State) : Host.Outcome State Fault Refusal := .next (oneDataMessage 0xF3#8 s)

end Sys2Proof.Machine
end

