-- ==== Sys2Proof/Machine/OtherStatus.lean ====
section
/-! DEFINITION. The six unrecognised status values (44_other_status.md). -/
namespace Sys2Proof.Machine

/-- SYSEX_START, status 0xF0: no payload is gathered (R161). -/
def execSysexStart (s : State) : Host.Outcome State Fault Refusal := .next (skipMessage 0xF0#8 s)

/-- UNDEF_F4, status 0xF4 (R162). -/
def execUndefF4 (s : State) : Host.Outcome State Fault Refusal := .next (skipMessage 0xF4#8 s)

/-- UNDEF_F5, status 0xF5 (R163). -/
def execUndefF5 (s : State) : Host.Outcome State Fault Refusal := .next (skipMessage 0xF5#8 s)

/-- SYSEX_END, status 0xF7: it ends nothing, it replaces the status in force (R164). -/
def execSysexEnd (s : State) : Host.Outcome State Fault Refusal := .next (skipMessage 0xF7#8 s)

/-- UNDEF_F9, status 0xF9 (R165). -/
def execUndefF9 (s : State) : Host.Outcome State Fault Refusal := .next (skipMessage 0xF9#8 s)

/-- UNDEF_FD, status 0xFD (R166). -/
def execUndefFD (s : State) : Host.Outcome State Fault Refusal := .next (skipMessage 0xFD#8 s)

end Sys2Proof.Machine
end

