-- ==== Sys2Proof/Machine/Send.lean ====
section
/-! DEFINITION. The SEND operation of the Encoder (45_encoder.md). -/
namespace Sys2Proof.Machine

/-- SEND: without a connection nothing is written or submitted and the result is 0; with one, five bytes are written and
submitted on the outbound channel and the result is 1 (R170, R172 to R176). -/
def execSend (command d1 d2 : Byte) (s : State) : Host.Outcome State Fault Refusal :=
  match connLookup s with
  | none   => .next (sendResult false s)
  | some c => .next (sendResult true (submit c (serialize command d1 d2 s)))

end Sys2Proof.Machine
end

