-- ==== Sys2Proof/Machine/TwoData.lean ====
section
/-! DEFINITION. The six two-data-byte messages (41_two_data_messages.md). -/
namespace Sys2Proof.Machine

/-- NOTE_OFF, status 0x80 + channel (R131). -/
def execNoteOff (ch : Channel) (s : State) : Host.Outcome State Fault Refusal := .next (twoDataMessage (0x8#4 ++ ch) s)

/-- NOTE_ON, status 0x90 + channel (R132). -/
def execNoteOn (ch : Channel) (s : State) : Host.Outcome State Fault Refusal := .next (twoDataMessage (0x9#4 ++ ch) s)

/-- POLY_PRESSURE, status 0xA0 + channel (R133). -/
def execPolyPressure (ch : Channel) (s : State) : Host.Outcome State Fault Refusal :=
  .next (twoDataMessage (0xA#4 ++ ch) s)

/-- CONTROL_CHANGE, status 0xB0 + channel; no controller number is special (R134). -/
def execControlChange (ch : Channel) (s : State) : Host.Outcome State Fault Refusal :=
  .next (twoDataMessage (0xB#4 ++ ch) s)

/-- PITCH_BEND, status 0xE0 + channel; the data bytes are not combined (R135, R78). -/
def execPitchBend (ch : Channel) (s : State) : Host.Outcome State Fault Refusal :=
  .next (twoDataMessage (0xE#4 ++ ch) s)

/-- SONG_POSITION, status 0xF2; it stays in `rs` like any other (R136). -/
def execSongPosition (s : State) : Host.Outcome State Fault Refusal := .next (twoDataMessage 0xF2#8 s)

end Sys2Proof.Machine
end

