-- ==== Sys2Proof/Machine/ZeroData.lean ====
section
/-! DEFINITION. The seven zero-data-byte messages (43_zero_data_messages.md). -/
namespace Sys2Proof.Machine

/-- TUNE_REQUEST, status 0xF6 (R151). -/
def execTuneRequest (s : State) : Host.Outcome State Fault Refusal := .next (zeroDataMessage 0xF6#8 s)

/-- CLOCK, status 0xF8 (R152). -/
def execClock (s : State) : Host.Outcome State Fault Refusal := .next (zeroDataMessage 0xF8#8 s)

/-- START, status 0xFA (R153). -/
def execStart (s : State) : Host.Outcome State Fault Refusal := .next (zeroDataMessage 0xFA#8 s)

/-- CONTINUE, status 0xFB (R154). -/
def execContinueMsg (s : State) : Host.Outcome State Fault Refusal := .next (zeroDataMessage 0xFB#8 s)

/-- STOP, status 0xFC (R155). -/
def execStop (s : State) : Host.Outcome State Fault Refusal := .next (zeroDataMessage 0xFC#8 s)

/-- ACTIVE_SENSING, status 0xFE (R156). -/
def execActiveSensing (s : State) : Host.Outcome State Fault Refusal := .next (zeroDataMessage 0xFE#8 s)

/-- SYS_RESET, status 0xFF: delivered like any other; it does not reset the codec (R157). -/
def execSysReset (s : State) : Host.Outcome State Fault Refusal := .next (zeroDataMessage 0xFF#8 s)

end Sys2Proof.Machine
end

