-- ==== Sys2Proof/Machine/Dispatch.lean ====
section
/-! DEFINITION. The dispatch: one arm per constructor of Instr, each a direct call of its meaning. -/
namespace Sys2Proof.Machine

-- Instructions of the opcode table, in the order of Syntax.lean.
def exec (i : Instr) (s : State) : Host.Outcome State Fault Refusal :=
  match i with
  | .noteOff ch => Sys2Proof.Machine.execNoteOff ch s
  | .noteOn ch => Sys2Proof.Machine.execNoteOn ch s
  | .polyPressure ch => Sys2Proof.Machine.execPolyPressure ch s
  | .controlChange ch => Sys2Proof.Machine.execControlChange ch s
  | .pitchBend ch => Sys2Proof.Machine.execPitchBend ch s
  | .songPosition => Sys2Proof.Machine.execSongPosition s
  | .programChange ch => Sys2Proof.Machine.execProgramChange ch s
  | .channelPressure ch => Sys2Proof.Machine.execChannelPressure ch s
  | .timeCode => Sys2Proof.Machine.execTimeCode s
  | .songSelect => Sys2Proof.Machine.execSongSelect s
  | .tuneRequest => Sys2Proof.Machine.execTuneRequest s
  | .clock => Sys2Proof.Machine.execClock s
  | .start => Sys2Proof.Machine.execStart s
  | .continueMsg => Sys2Proof.Machine.execContinueMsg s
  | .stop => Sys2Proof.Machine.execStop s
  | .activeSensing => Sys2Proof.Machine.execActiveSensing s
  | .sysReset => Sys2Proof.Machine.execSysReset s
  | .sysexStart => Sys2Proof.Machine.execSysexStart s
  | .undefF4 => Sys2Proof.Machine.execUndefF4 s
  | .undefF5 => Sys2Proof.Machine.execUndefF5 s
  | .sysexEnd => Sys2Proof.Machine.execSysexEnd s
  | .undefF9 => Sys2Proof.Machine.execUndefF9 s
  | .undefFD => Sys2Proof.Machine.execUndefFD s
  | .frame mark th => Sys2Proof.Machine.execFrame mark th s
  | .ts tl => Sys2Proof.Machine.execTs tl s
  | .run d => Sys2Proof.Machine.execRun d s
  | .send command d1 d2 => Sys2Proof.Machine.execSend command d1 d2 s

end Sys2Proof.Machine
end

