-- ==== Sys2Proof/WellFormed.lean ====
section
/-! DEFINITION. Which terms of Instr are instructions of the wire protocol. Field widths are in the types; the one condition left is the marker bit of RUN. -/
namespace Sys2Proof

/-- RUN begins at a byte with bit 7 clear (R74; the RUN row's mask 0x80, match 0x00). A framing byte is an
instruction whatever its bits 7 and 6 are (R84, SC10), and the other operands are bounded by their types. -/
def Instr.wf : Instr → Bool
  | .run d => !d.msb
  | .noteOff _ | .noteOn _ | .polyPressure _ | .controlChange _ | .pitchBend _ | .songPosition => true
  | .programChange _ | .channelPressure _ | .timeCode | .songSelect => true
  | .tuneRequest | .clock | .start | .continueMsg | .stop | .activeSensing | .sysReset => true
  | .sysexStart | .undefF4 | .undefF5 | .sysexEnd | .undefF9 | .undefFD => true
  | .frame _ _ | .ts _ | .send _ _ _ => true

/-- A well-formed instruction. -/
abbrev WellFormed (i : Instr) : Prop := i.wf = true

end Sys2Proof
end

