-- ==== Sys2Proof/Decode.lean ====
section
/-! DEFINITION. The decoder, total on any bytes and rejecting by name, and after it the encoder and the opcode table's match/mask rows. Bytes with bit 7 set are told apart by their position only (R87). -/
namespace Sys2Proof

/-- Where a byte stands, which decides what it is (R87). -/
inductive Position where
  /-- Offset 0: the framing byte, whatever its bits (R87 a). -/
  | framing
  /-- The start of an iteration of the walk (R87 b). -/
  | iterStart
  /-- Directly after a timestamp byte consumed in the same iteration (R87 c). -/
  | lookAhead
  /-- An outbound frame, which only SEND produces (R79). -/
  | outbound
deriving DecidableEq, Repr

/-- Why bytes are no instruction. -/
inductive DecodeError where
  /-- There is no byte at all. -/
  | noByte
  /-- Fewer than five bytes of an outbound frame (R79). -/
  | shortOutbound
  /-- An outbound frame whose first two bytes are not 0x80, 0x80 (R79). -/
  | badOutboundHeader
deriving DecidableEq, Repr

/-- The system codes: a status byte with status nibble 0xF is selected whole, by its low nibble (R80, R82). -/
def decodeSystem (low : BitVec 4) : Instr :=
  match low with
  | 0x0#4 => .sysexStart
  | 0x1#4 => .timeCode
  | 0x2#4 => .songPosition
  | 0x3#4 => .songSelect
  | 0x4#4 => .undefF4
  | 0x5#4 => .undefF5
  | 0x6#4 => .tuneRequest
  | 0x7#4 => .sysexEnd
  | 0x8#4 => .clock
  | 0x9#4 => .undefF9
  | 0xA#4 => .start
  | 0xB#4 => .continueMsg
  | 0xC#4 => .stop
  | 0xD#4 => .undefFD
  | 0xE#4 => .activeSensing
  | _     => .sysReset

/-- `Category` of a status byte: dispatch on the status nibble when it is 0x8 to 0xE, on the whole byte when it is 0xF
(R80, R81). None for a byte with bit 7 clear, which is no status byte (R86). -/
def decodeStatus (b : Byte) : Option Instr :=
  let ch := b.extractLsb' 0 4
  match b.extractLsb' 4 4 with
  | 0x8#4 => some (.noteOff ch)
  | 0x9#4 => some (.noteOn ch)
  | 0xA#4 => some (.polyPressure ch)
  | 0xB#4 => some (.controlChange ch)
  | 0xC#4 => some (.programChange ch)
  | 0xD#4 => some (.channelPressure ch)
  | 0xE#4 => some (.pitchBend ch)
  | 0xF#4 => some (decodeSystem ch)
  | _     => none

/-- The framing byte: bits 7 and 6 unchecked, bits 5 to 0 the timestamp-high (R71, R84). -/
def decodeFraming (b : Byte) : Instr := .frame (b.extractLsb' 6 2) (b.extractLsb' 0 6)

/-- At the start of an iteration a byte with bit 7 set is a timestamp byte; otherwise the message is under running
status (R87 b, R107, R112). -/
def decodeIterStart (b : Byte) : Instr :=
  if b.msb then .ts (b.extractLsb' 0 7) else .run b

/-- After a timestamp byte a byte with bit 7 set is a status byte; otherwise running status carries over (R87 c, R111, R112). -/
def decodeLookAhead (b : Byte) : Instr := (decodeStatus b).getD (.run b)

/-- The five bytes of an outbound frame (R79, R93). -/
def decodeOutbound : List Byte → Except DecodeError (Instr × List Byte)
  | b0 :: b1 :: c :: d :: e :: rest =>
    if b0 = Config.hdrDefault ∧ b1 = Config.hdrDefault then .ok (.send c d e, rest) else .error .badOutboundHeader
  | _ => .error .shortOutbound

/-- The instruction at the head of a byte list standing at a position, and the bytes after its own. -/
def decode (p : Position) (bs : List Byte) : Except DecodeError (Instr × List Byte) :=
  match p, bs with
  | .outbound, bs       => decodeOutbound bs
  | _, []               => .error .noByte
  | .framing, b :: rest   => .ok (decodeFraming b, rest)
  | .iterStart, b :: rest => .ok (decodeIterStart b, rest)
  | .lookAhead, b :: rest => .ok (decodeLookAhead b, rest)

/-- The bytes of a table word, byte 0 highest: the SEND row's own numbering, "byte 0 is bits 39:32, sent first"
(log 2); a one-byte word is its own byte. -/
def tableBytes (nbits w : Nat) : List Byte :=
  if nbits = 40 then
    [BitVec.ofNat 8 (w / 2 ^ 32), BitVec.ofNat 8 (w / 2 ^ 24), BitVec.ofNat 8 (w / 2 ^ 16), BitVec.ofNat 8 (w / 2 ^ 8),
      BitVec.ofNat 8 w]
  else if nbits = 8 then [BitVec.ofNat 8 w]
  else []

/-- The instruction the decoder reads from a table word. A 40-bit word is an outbound frame; a one-byte word is read
in the status position, where 24 of the 26 one-byte rows stand. The rows FRAME and TS have bit patterns that the
status rows share, and are told apart by position alone (R87; log 1). -/
def decodeTableWord (nbits w : Nat) : Option Instr :=
  match decode (if nbits = 40 then .outbound else .lookAhead) (tableBytes nbits w) with
  | .ok (i, _) => some i
  | .error _   => none

/-! ### The encoder (R70 to R74, R79, R91, R93) -/

/-- The bytes of an instruction. -/
def encode : Instr → List Byte
  | .noteOff ch         => [0x8#4 ++ ch]
  | .noteOn ch          => [0x9#4 ++ ch]
  | .polyPressure ch    => [0xA#4 ++ ch]
  | .controlChange ch   => [0xB#4 ++ ch]
  | .programChange ch   => [0xC#4 ++ ch]
  | .channelPressure ch => [0xD#4 ++ ch]
  | .pitchBend ch       => [0xE#4 ++ ch]
  | .sysexStart         => [0xF0#8]
  | .timeCode           => [0xF1#8]
  | .songPosition       => [0xF2#8]
  | .songSelect         => [0xF3#8]
  | .undefF4            => [0xF4#8]
  | .undefF5            => [0xF5#8]
  | .tuneRequest        => [0xF6#8]
  | .sysexEnd           => [0xF7#8]
  | .clock              => [0xF8#8]
  | .undefF9            => [0xF9#8]
  | .start              => [0xFA#8]
  | .continueMsg        => [0xFB#8]
  | .stop               => [0xFC#8]
  | .undefFD            => [0xFD#8]
  | .activeSensing      => [0xFE#8]
  | .sysReset           => [0xFF#8]
  | .frame mark th      => [mark ++ th]
  | .ts tl              => [1#1 ++ tl]
  | .run d              => [d]
  | .send c d e         => [Config.hdrDefault, Config.hdrDefault, c, d, e]

/-- The position at which an instruction's bytes stand. RUN stands at the start of an iteration and in the look-ahead
position alike; this names the first. -/
def positionOf : Instr → Position
  | .frame _ _  => .framing
  | .ts _       => .iterStart
  | .run _      => .iterStart
  | .send _ _ _ => .outbound
  | .noteOff _ | .noteOn _ | .polyPressure _ | .controlChange _ | .pitchBend _ | .songPosition => .lookAhead
  | .programChange _ | .channelPressure _ | .timeCode | .songSelect => .lookAhead
  | .tuneRequest | .clock | .start | .continueMsg | .stop | .activeSensing | .sysReset => .lookAhead
  | .sysexStart | .undefF4 | .undefF5 | .sysexEnd | .undefF9 | .undefFD => .lookAhead

/-- A row of spec/opcode_table.json: its width in bits and the value its bits have under the mask. -/
structure TableRow where
  mnemonic : String
  width    : Nat
  pattern  : Nat
  mask     : Nat
deriving DecidableEq, Repr

/-- The row of an instruction, copied from spec/opcode_table.json. -/
def tableRow : Instr → TableRow
  | .noteOff _         => ⟨"NOTE_OFF", 8, 0x80, 0xF0⟩
  | .noteOn _          => ⟨"NOTE_ON", 8, 0x90, 0xF0⟩
  | .polyPressure _    => ⟨"POLY_PRESSURE", 8, 0xA0, 0xF0⟩
  | .controlChange _   => ⟨"CONTROL_CHANGE", 8, 0xB0, 0xF0⟩
  | .pitchBend _       => ⟨"PITCH_BEND", 8, 0xE0, 0xF0⟩
  | .songPosition      => ⟨"SONG_POSITION", 8, 0xF2, 0xFF⟩
  | .programChange _   => ⟨"PROGRAM_CHANGE", 8, 0xC0, 0xF0⟩
  | .channelPressure _ => ⟨"CHANNEL_PRESSURE", 8, 0xD0, 0xF0⟩
  | .timeCode          => ⟨"TIME_CODE", 8, 0xF1, 0xFF⟩
  | .songSelect        => ⟨"SONG_SELECT", 8, 0xF3, 0xFF⟩
  | .tuneRequest       => ⟨"TUNE_REQUEST", 8, 0xF6, 0xFF⟩
  | .clock             => ⟨"CLOCK", 8, 0xF8, 0xFF⟩
  | .start             => ⟨"START", 8, 0xFA, 0xFF⟩
  | .continueMsg       => ⟨"CONTINUE", 8, 0xFB, 0xFF⟩
  | .stop              => ⟨"STOP", 8, 0xFC, 0xFF⟩
  | .activeSensing     => ⟨"ACTIVE_SENSING", 8, 0xFE, 0xFF⟩
  | .sysReset          => ⟨"SYS_RESET", 8, 0xFF, 0xFF⟩
  | .sysexStart        => ⟨"SYSEX_START", 8, 0xF0, 0xFF⟩
  | .undefF4           => ⟨"UNDEF_F4", 8, 0xF4, 0xFF⟩
  | .undefF5           => ⟨"UNDEF_F5", 8, 0xF5, 0xFF⟩
  | .sysexEnd          => ⟨"SYSEX_END", 8, 0xF7, 0xFF⟩
  | .undefF9           => ⟨"UNDEF_F9", 8, 0xF9, 0xFF⟩
  | .undefFD           => ⟨"UNDEF_FD", 8, 0xFD, 0xFF⟩
  | .frame _ _         => ⟨"FRAME", 8, 0x80, 0xC0⟩
  | .ts _              => ⟨"TS", 8, 0x80, 0x80⟩
  | .run _             => ⟨"RUN", 8, 0x00, 0x80⟩
  | .send _ _ _        => ⟨"SEND", 40, 0x8080000000, 0xFFFF000000⟩

/-- The encoded bytes as one number, byte 0 highest. -/
def encodedWord (i : Instr) : Nat := (encode i).foldl (fun w b => w * 256 + b.toNat) 0

end Sys2Proof
end

