-- ==== Sys2Proof/Machine/HostPorts.lean ====
section
/-! DEFINITION. The host requests that have no table row (46_host_interface.md, 70_reset_and_hazards.md) and the transport's own actions. -/
namespace Sys2Proof.Machine

/-- What RESET leaves in the registers it does not set: the free values `u`, cut to the OPEN widths (R230, R41; log 8). -/
def unspecifiedRegisters (u : Unspecified) (s : State) : State :=
  { s with
    consTarget := u.target % 2 ^ s.params.targetW
    tsHigh     := u.tsHigh
    tsLowPrev  := u.tsLowPrev
    tsLowSeen  := u.tsLowSeen
    ts         := u.ts
    d1         := u.d1
    d2         := u.d2
    i          := u.cursor % (s.params.lenMax + 2)
    tx         := Memory.ofBytes [u.tx0, u.tx1, u.tx2, u.tx3, u.tx4]
    freeCount  := s.freeCount + 1 }

/-- RESET (R230), refused during a DECODE (R233, R239). A SEND is one step, so none is in progress. -/
def requestReset (s : State) : Host.Outcome State Fault Refusal :=
  if s.decBusy then .refused .resetWhileBusy
  else
    .next { unspecifiedRegisters (Config.unspecified s.freeCount) s with
      rs := 0x00#8, consReg := false, decBusy := false }

/-- REGISTER (R185), refused during a DECODE (R239). -/
def requestRegister (target : Nat) (s : State) : Host.Outcome State Fault Refusal :=
  if s.decBusy then .refused .registerWhileBusy
  else if target < 2 ^ s.params.targetW then .next { s with consTarget := target, consReg := true }
  else .refused .targetTooWide

/-- The entry checks: a frame of at least three bytes and a registered consumer (R101, R102). -/
abbrev entryChecks (len : Nat) (s : State) : Prop := Config.minLen ≤ len ∧ s.consReg = true

/-- DECODE is accepted: the Decoder is busy, the frame is at hand, and the walk starts if the entry checks pass (R123,
R187). Refused while another is in progress (R238), above `LEN_MAX` (R50), and when the transport provides fewer bytes
than it states (R241). -/
def requestDecode (bytes : List Byte) (len : Nat) (s : State) : Host.Outcome State Fault Refusal :=
  if s.decBusy then .refused .decodeWhileBusy
  else if s.params.lenMax < len then .refused .frameTooLong
  else if bytes.length < len then .refused .frameNotReadable
  else
    .next { s with
      decBusy := true
      buf     := Memory.ofBytes (bytes.take len)
      len     := len
      phase   := if entryChecks len s then .framing else .walkEnded }

/-- The transport's accessor answers differently from now on, which it may at any time (R193). -/
def transportConnection (c : Option Nat) (s : State) : Host.Outcome State Fault Refusal :=
  match c with
  | none   => .next { s with conn := none }
  | some k => if k < 2 ^ s.params.connW then .next { s with conn := some k } else .refused .connTooWide

/-- The transport writes a byte of its buffer: refused if that alters the frame of a DECODE in progress (R241, R65);
otherwise the codec does not see it. -/
def transportBufferByte (offset : Nat) (b : Byte) (s : State) : Host.Outcome State Fault Refusal :=
  if s.decBusy && decide (offset < s.len) && decide (b ≠ s.buf.read offset) then .refused .frameChanged else .next s

/-- The transport changes the length of its frame: refused if that alters `L` during a DECODE (R241). -/
def transportBufferLength (n : Nat) (s : State) : Host.Outcome State Fault Refusal :=
  if s.decBusy && decide (n ≠ s.len) then .refused .frameChanged else .next s

end Sys2Proof.Machine
end

