-- ==== Sys2Proof/Machine/Fetch.lean ====
section
/-! DEFINITION. What the next step is: the instruction fetched and the state it runs in, or a move that is no table instruction. -/
namespace Sys2Proof.Machine

/-- The next move of the machine. -/
inductive Move where
  /-- An instruction runs in the state given. -/
  | instr (i : Instr) (s : State)
  /-- A move that is no row of the opcode table, with its outcome. -/
  | other (o : Host.Outcome State Fault Refusal)

/-- The instruction at offset 0, by position the framing byte (R87 a). A frame without it is outside `MemRead`'s domain
(R52). -/
def fetchFraming (s : State) : Move :=
  match memRead s 0 with
  | some b => .instr (decodeFraming b) s
  | none   => .other (.fault .readOutsideFrame)

/-- The start of an iteration: the loop test `i < L` (R106), then the byte at the cursor (R107). -/
def fetchIterStart (s : State) : Move :=
  match memRead s s.i with
  | some b => .instr (decodeIterStart b) s
  | none   => .other (.next (endInvocation s))

/-- Directly after a timestamp byte: the byte at the cursor if there is one (R111, R52), else no byte (R208). -/
def fetchLookAhead (s : State) : Move :=
  match memRead s s.i with
  | some b => .instr (decodeLookAhead b) s
  | none   => .other (.next (carryOverAtEnd s))

/-- What the codec does when no host acts: a consumer that holds an event returns and the walk resumes after `Emit()`
(R118, R214, D28; log 5); a busy Decoder goes on
(R123); an idle codec waits (R232; log 16). -/
def codecMove (s : State) : Move :=
  if s.inCallback then .other (.next (consumerReturns s))
  else if !s.decBusy then .other (.next s)
  else
    match s.phase with
    | .framing   => fetchFraming s
    | .iterStart => fetchIterStart s
    | .lookAhead => fetchLookAhead s
    | .walkEnded => .other (.next (endInvocation s))

/-- What one host action is (R191). -/
def hostMove (a : Input) (s : State) : Move :=
  match a with
  | .turn           => codecMove s
  | .reset          => .other (requestReset s)
  | .register t     => .other (requestRegister t s)
  | .decode bs n    => .other (requestDecode bs n s)
  | .send c d e     => .instr (.send c d e) s
  | .connection c   => .other (transportConnection c s)
  | .bufferByte a b => .other (transportBufferByte a b s)
  | .bufferLength n => .other (transportBufferLength n s)

/-- The next move: the first pending host action, or the codec's own move when none is pending. -/
def nextMove (s : State) : Move :=
  match s.inputs with
  | []        => codecMove s
  | a :: rest => hostMove a { s with inputs := rest }

/-- A frame whose third byte is `b`, with operand bytes of zeros after it, and the Decoder in the look-ahead position at
that byte; a step is the codec's turn. -/
def placeStatusByte (b : Byte) (s : State) : State :=
  { s with
    buf        := Memory.ofBytes [0x80#8, 0x80#8, b]
    len        := 5
    i          := 2
    phase      := .lookAhead
    decBusy    := true
    inCallback := false
    inputs     := .turn :: s.inputs }

/-- A SEND request with the operands of an outbound frame, first among the host actions. -/
def placeSend (bytes : List Byte) (s : State) : State :=
  match decodeOutbound bytes with
  | .ok (.send c d e, _) => { s with inputs := .send c d e :: s.inputs }
  | _                    => s

end Sys2Proof.Machine
end

