-- ==== Sys2Proof/Machine/Step.lean ====
section
/-! DEFINITION. One step of the machine, and the placing of one instruction where the step fetches its next. -/
namespace Sys2Proof.Machine

/-- A move carried out: an instruction runs in the state it was fetched in. -/
def runMove : Move → Host.Outcome State Fault Refusal
  | .instr i t => exec i t
  | .other o   => o

/-- One step: the next move, carried out. -/
def step (s : State) : Host.Outcome State Fault Refusal := runMove (nextMove s)

/-- The state with one table instruction where the next step fetches it: a status byte or a data byte at the cursor of a
walk in the look-ahead position, an outbound frame as a SEND request (log 20). -/
def State.withFetchWord (s : State) (nbits w : Nat) : State :=
  if nbits = 40 then placeSend (tableBytes nbits w) s
  else if nbits = 8 then placeStatusByte (BitVec.ofNat 8 w) s
  else s

end Sys2Proof.Machine
end

