-- ==== Sys2Proof/Machine/WholeDecode.lean ====
section
/-! DEFINITION. DECODE written whole, as the pseudocode of R123: one loop over the frame with its own registers and no machine state around it. Statements compare the stepping machine with it; the machine does not use it. -/
namespace Sys2Proof.Machine

/-- The registers of one invocation (R20 b) and `rs`. -/
structure Walk where
  rs        : Byte
  tsHigh    : Stamp
  tsLowPrev : StampLow
  tsLowSeen : Bool
  ts        : Stamp
  d1        : Byte
  d2        : Byte
  i         : Nat
deriving DecidableEq, Repr

/-- An event with its sideband bit. -/
abbrev Delivery := Event × Bool

/-- `Emit()` of R123, as the value delivered (R118). -/
def Walk.event (w : Walk) : Delivery :=
  (⟨0x80#8, w.ts, w.rs, w.d1, w.d2⟩, dataOk (arity w.rs) w.d1 w.d2)

/-- The initialisation lines of R123, from the framing byte. -/
def Walk.init (b : Byte) : Walk where
  rs        := 0#8
  tsHigh    := (b.extractLsb' 0 6).setWidth 16 <<< 7
  tsLowPrev := 0#7
  tsLowSeen := false
  ts        := (b.extractLsb' 0 6).setWidth 16 <<< 7
  d1        := 0#8
  d2        := 0#8
  i         := 1

/-- The status look-ahead of step 1 (R111). -/
def Walk.lookAhead (m : Memory) (n : Nat) (w : Walk) : Walk :=
  if w.i < n ∧ (m.read w.i).msb = true then { w with rs := m.read w.i, i := w.i + 1 } else w

/-- Step 1 of an iteration (R107 to R111). -/
def Walk.stepOne (m : Memory) (n : Nat) (w : Walk) : Walk :=
  let b := m.read w.i
  if b.msb then
    let low  := b.extractLsb' 0 7
    let high := if w.tsLowSeen ∧ low ≤ w.tsLowPrev then w.tsHigh + 128#16 else w.tsHigh
    Walk.lookAhead m n
      { w with tsHigh := high, tsLowPrev := low, tsLowSeen := true, ts := high + low.setWidth 16, i := w.i + 1 }
  else w

/-- Steps 2 and 3 of an iteration that began with the cursor at `i0`: the events emitted, and the registers for the next
iteration unless the walk ends (R113 to R117, R130, R140, R150, R158, R160). -/
def Walk.dispatch (m : Memory) (n i0 : Nat) (w : Walk) : List Delivery × Option Walk :=
  if w.rs = 0#8 then ([], none)
  else
    match arity w.rs with
    | .two =>
      if w.i + 1 < n then
        let w' := { w with d1 := m.read w.i, d2 := m.read (w.i + 1) }
        ([w'.event], some { w' with i := w.i + 2 })
      else ([], none)
    | .one =>
      if w.i < n then
        let w' := { w with d1 := m.read w.i }
        ([w'.event], some { w' with i := w.i + 1 })
      else ([], none)
    | .zero  => ([w.event], if w.i = i0 then none else some w)
    | .other => ([], some { w with i := w.i + 1 })

/-- The `while` loop of R123, with fuel for its iterations; each iteration that goes on moves the cursor (R121), so a fuel
of `n` never runs out. -/
def Walk.loop (m : Memory) (n : Nat) : Nat → Walk → List Delivery
  | 0, _        => []
  | fuel + 1, w =>
    if w.i < n then
      match Walk.dispatch m n w.i (Walk.stepOne m n w) with
      | (es, none)    => es
      | (es, some w') => es ++ Walk.loop m n fuel w'
    else []

/-- The events that DECODE delivers for a frame of length `n` in buffer `m`, with or without a registered consumer (R123). -/
def decodedEvents (consumer : Bool) (m : Memory) (n : Nat) : List Delivery :=
  if n < 3 then []
  else if !consumer then []
  else Walk.loop m n n (Walk.init (m.read 0))

end Sys2Proof.Machine
end

