-- ==== Sys2Proof/Safety.lean ====
section
/-! DEFINITION. What a good state is (the invariant that every step keeps) and which host actions keep the hosts' duties. -/
namespace Sys2Proof.Machine

/-- The status register holds 0x00 ("never established") or a byte with bit 7 set; 0x01 to 0x7F can never be in it (R21). -/
abbrev rsLegal (s : State) : Prop := s.rs = 0x00#8 ∨ s.rs.msb = true

/-- Every event delivered so far carried the constant header (R33) and a command with bit 7 set (R120 d). -/
abbrev eventsLegal (s : State) : Prop :=
  ∀ target e ok, Output.event target e ok ∈ s.outputs → e.header = 0x80#8 ∧ e.command.msb = true

/-- The walk is under way: between the framing byte and its end. -/
abbrev inWalk (s : State) : Prop := s.phase = .iterStart ∨ s.phase = .lookAhead

/-- An event is outstanding under a status that emits, and what its `Emit()` found still holds, so that the walk can resume after
it: the data bytes are inside the frame, and so is the byte at which a stalled iteration stands (R115, R158, R214). -/
abbrev canResume (s : State) : Prop :=
  match arity s.rs with
  | .two   => s.i + 1 < s.len
  | .one   => s.i < s.len
  | .zero  => s.phase = .iterStart → s.i < s.len
  | .other => False

/-- What holds in every state that a run reaches. -/
structure State.Inv (s : State) : Prop where
  /-- The OPEN parameters keep their constraints (92_eei_decisions.md). -/
  params : s.params.wf
  /-- Both buffers are in canonical form, and list nothing outside their offsets (R38, R61). -/
  bufWf : s.buf.wf
  bufInFrame : ∀ c ∈ s.buf, c.1 < s.len
  txWf : s.tx.wf
  txInFrame : ∀ c ∈ s.tx, c.1 < Config.txLen
  /-- No frame is longer than `LEN_MAX`, and the cursor never passes `LEN_MAX + 1` (R27). -/
  lenMax : s.len ≤ s.params.lenMax
  cursorMax : s.i ≤ s.params.lenMax + 1
  /-- The opaque identifiers fit their widths (R32, R34). -/
  targetWidth : s.consTarget < 2 ^ s.params.targetW
  connWidth : ∀ c ∈ s.conn, c < 2 ^ s.params.connW
  rs : rsLegal s
  /-- Running status is zero whenever no DECODE is in progress (R20 a, R21); no event is outstanding then. -/
  idle : s.decBusy = false → s.rs = 0x00#8 ∧ s.phase = .walkEnded ∧ s.inCallback = false ∧ s.len = 0
  /-- Before the framing byte: the entry checks have passed and running status is still zero (R101 to R103). -/
  framing : s.phase = .framing → 3 ≤ s.len ∧ s.consReg = true ∧ s.rs = 0x00#8 ∧ s.inCallback = false
  /-- In the walk: the entry checks have passed, the cursor stands between 1 and `L + 1` (R27), the accumulator is a
  multiple of 128 (R22), no status without a timestamp byte before it (R120 b), and the timestamp is the sum of its two
  parts (R109). -/
  walkChecked : inWalk s → 3 ≤ s.len ∧ s.consReg = true
  walkCursor : inWalk s → 1 ≤ s.i ∧ s.i ≤ s.len + 1
  walkHigh : inWalk s → s.tsHigh.extractLsb' 0 7 = 0#7
  walkSeen : inWalk s → s.tsLowSeen = false → s.rs = 0x00#8
  walkStamp : inWalk s → s.tsLowSeen = true → s.ts = s.tsHigh + s.tsLowPrev.setWidth 16
  /-- In the look-ahead a timestamp byte of the iteration has been consumed, inside the frame. -/
  look : s.phase = .lookAhead → s.tsLowSeen = true ∧ 2 ≤ s.i ∧ s.i ≤ s.len
  /-- While the consumer holds an event the Decoder stands at its `Emit()` (R118, R213, R214). -/
  holding : s.inCallback = true → inWalk s ∧ s.rs.msb = true ∧ canResume s
  events : eventsLegal s

/-- The hosts leave the codec alone: no action is pending. -/
abbrev hostsQuiet (s : State) : Prop := s.inputs = []

/-- A host action that keeps the duties of R193 in a state: the model refuses every other (R247). -/
def keepsDuties (a : Input) (s : State) : Bool :=
  match a with
  | .turn | .send _ _ _ => true
  | .reset              => !s.decBusy
  | .register t         => !s.decBusy && decide (t < 2 ^ s.params.targetW)
  | .decode bs n        => !s.decBusy && decide (n ≤ s.params.lenMax) && decide (n ≤ bs.length)
  | .connection c       => c.all (fun k => decide (k < 2 ^ s.params.connW))
  | .bufferByte a b     => !s.decBusy || decide (s.len ≤ a) || decide (b = s.buf.read a)
  | .bufferLength n     => !s.decBusy || decide (n = s.len)

end Sys2Proof.Machine
end

