-- ==== Sys2Proof/Certificates/Slice0/Obligations.lean ====
section
/-! DEFINITION. The statements for the provers. Every value a rule gives is written out here as a literal next state (namespace Sys2Proof.Expect), not through the operations the meanings call. -/
open Sys2Proof Sys2Proof.Machine

namespace Sys2Proof.Expect

/-- The event transaction of an emission with the given fields (R118). -/
abbrev delivered (s : State) (stamp : Stamp) (command data1 data2 : Byte) (ok : Bool) : List Output :=
  [.event s.consTarget ⟨0x80#8, stamp, command, data1, data2⟩ ok]

/-- Within `Emit()` of a two-data message whose first data byte stands at `i`: the cursor and the phase are held at what they
were when `Emit()` was reached (R118). -/
abbrev twoData (st b c : Byte) (i : Nat) (p : Phase) (s : State) : State :=
  { s with
    rs := st, d1 := b, d2 := c, i := i, phase := p, inCallback := true
    outputs := s.outputs ++ delivered s s.ts st b c (!b.msb && !c.msb) }

/-- Within `Emit()` of a one-data message: `d2` lingers, in the register and in the event. -/
abbrev oneData (st b : Byte) (i : Nat) (p : Phase) (s : State) : State :=
  { s with
    rs := st, d1 := b, i := i, phase := p, inCallback := true
    outputs := s.outputs ++ delivered s s.ts st b s.d2 (!b.msb) }

/-- Within `Emit()` of a zero-data message: both data registers linger; `data_ok` is 1. -/
abbrev zeroData (st : Byte) (i : Nat) (p : Phase) (s : State) : State :=
  { s with
    rs := st, i := i, phase := p, inCallback := true
    outputs := s.outputs ++ delivered s s.ts st s.d1 s.d2 true }

/-- The consumer has returned and the walk stands at cursor `i` in phase `p`; nothing else has changed. -/
abbrev resumed (i : Nat) (p : Phase) (s : State) : State := { s with i := i, phase := p, inCallback := false }

/-- An instruction completes: it answers the state `t` within its `Emit()`, and when no host acts the next step is the consumer's
return, after which the state is `u` (R118, R214; that the consumer returns then is log 5). -/
abbrev emitsThenResumes (i : Instr) (s t u : State) : Prop :=
  exec i s = .next t ∧ (s.inputs = [] → step t = .next u)

/-- After an unrecognised status: one byte skipped, no event. -/
abbrev skipped (st : Byte) (i : Nat) (s : State) : State := { s with rs := st, i := i, phase := .iterStart }

/-- After a message whose data bytes are missing: no event, the walk ends. -/
abbrev short (st : Byte) (i : Nat) (s : State) : State := { s with rs := st, i := i, phase := .walkEnded }

/-- Every byte of both buffers reads as before. -/
abbrev sameMemory (s t : State) : Prop :=
  (∀ a, t.buf.read a = s.buf.read a) ∧ (∀ a, t.tx.read a = s.tx.read a) ∧ t.len = s.len

/-- The registration, the parameters, the transport's connection and the pending host actions are as before. -/
abbrev samePorts (s t : State) : Prop :=
  t.params = s.params ∧ t.consReg = s.consReg ∧ t.consTarget = s.consTarget ∧ t.conn = s.conn ∧ t.inputs = s.inputs ∧
    t.freeCount = s.freeCount

/-- The timestamp registers are as before. -/
abbrev sameStamps (s t : State) : Prop :=
  t.tsHigh = s.tsHigh ∧ t.tsLowPrev = s.tsLowPrev ∧ t.tsLowSeen = s.tsLowSeen ∧ t.ts = s.ts

/-- The state in which the pending host action `a` has been taken. -/
abbrev taking (s : State) (a : Input) (rest : List Input) : Prop := s.inputs = a :: rest

/-- The state in which no host acts and the Decoder is free to move. -/
abbrev decoderFree (s : State) : Prop := s.inputs = [] ∧ s.inCallback = false ∧ s.decBusy = true

/-- A run of `k` steps ends in `t`. -/
abbrev reaches (k : Nat) (s t : State) : Prop := Host.Core.run Sys2Proof.core k s = .next t

/-- An idle codec with one DECODE request pending that keeps the transport's duties. -/
abbrev decodePending (s : State) (bytes : List Byte) (n : Nat) : Prop :=
  s.Inv ∧ s.decBusy = false ∧ s.inputs = [.decode bytes n] ∧ n ≤ s.params.lenMax ∧ n ≤ bytes.length

/-- Is a transaction of the consumer port. -/
abbrev isEvent (o : Output) : Bool :=
  match o with
  | .event _ _ _ => true
  | _ => false

end Sys2Proof.Expect

open Sys2Proof.Expect

/-! ### Encoding -/

/-- Decoding an encoded well-formed instruction, followed by any bytes, gives it back with those bytes left, at the position
where it stands; RUN stands in two positions (R70 to R74, R79, R87, R91). -/
def Obligations.DecodeInvertsEncode : Prop :=
  (∀ i rest, WellFormed i → decode (positionOf i) (encode i ++ rest) = .ok (i, rest)) ∧
  (∀ d rest, WellFormed (.run d) → decode .lookAhead (encode (.run d) ++ rest) = .ok (.run d, rest))

/-- What is decoded is well formed, stands where it was decoded, and encodes to exactly the bytes consumed: no byte has two
readings at one position. -/
def Obligations.EncodeInvertsDecode : Prop :=
  ∀ p bs i rest, decode p bs = .ok (i, rest) →
    WellFormed i ∧ bs = encode i ++ rest ∧ (positionOf i = p ∨ ∃ d, i = .run d ∧ p = .lookAhead)

/-- Words written out from the tables of R71 to R73 and R80 decode to what they stand for (the numbers of the status codes are
general knowledge the spec supplies, 93_implementation_defined.md G1; log 19). -/
def Obligations.SpecWordsDecode : Prop :=
  decode .framing [0b10000101#8] = .ok (.frame 0b10#2 5#6, []) ∧
  decode .framing [0b01111111#8] = .ok (.frame 0b01#2 63#6, []) ∧
  decode .iterStart [0b11111010#8] = .ok (.ts 122#7, []) ∧
  decode .iterStart [0b00111100#8] = .ok (.run 0x3C#8, []) ∧
  decode .lookAhead [0b10010001#8] = .ok (.noteOn 1#4, []) ∧
  decode .lookAhead [0b11000101#8] = .ok (.programChange 5#4, []) ∧
  decode .lookAhead [0b11110010#8] = .ok (.songPosition, []) ∧
  decode .lookAhead [0b11111000#8] = .ok (.clock, []) ∧
  decode .lookAhead [0b11110101#8] = .ok (.undefF5, []) ∧
  decode .outbound [0x80#8, 0x80#8, 0x90#8, 0x3C#8, 0x64#8] = .ok (.send 0x90#8 0x3C#8 0x64#8, [])

/-- How many status values have each arity, and that values with bit 7 clear have none (R81, R86; the table is G1's, log 19). -/
def Obligations.ArityCountsOfStatusValues : Prop :=
  (∀ s : Byte, s.msb = false → arity s = .other) ∧
  ((List.range 128).map fun k => arity (BitVec.ofNat 8 (128 + k))).count .two = 81 ∧
  ((List.range 128).map fun k => arity (BitVec.ofNat 8 (128 + k))).count .one = 34 ∧
  ((List.range 128).map fun k => arity (BitVec.ofNat 8 (128 + k))).count .zero = 7 ∧
  ((List.range 128).map fun k => arity (BitVec.ofNat 8 (128 + k))).count .other = 6

/-- A byte with bit 7 set is told apart by its position: framing byte at offset 0, timestamp byte at the start of an iteration,
status byte directly after a timestamp byte; a byte with bit 7 clear is running status at both (R87 a to c, R71, R72). -/
def Obligations.PositionDecidesByteKind : Prop :=
  ∀ b : Byte,
    decode .framing [b] = .ok (.frame (b.extractLsb' 6 2) (b.extractLsb' 0 6), []) ∧
    (b.msb = true → decode .iterStart [b] = .ok (.ts (b.extractLsb' 0 7), []) ∧
      ∃ i, decode .lookAhead [b] = .ok (i, []) ∧ positionOf i = .lookAhead ∧ encode i = [b]) ∧
    (b.msb = false → decode .iterStart [b] = .ok (.run b, []) ∧ decode .lookAhead [b] = .ok (.run b, []))

/-! ### Results: every instruction completes -/

/-- R130 to R136, with R111: when both data bytes are there, each of the six two-data messages answers the state with the status
byte in `rs`, the two bytes in `d1` and `d2`, and one event, the cursor still at the data bytes; when the consumer returns the
cursor moves past them (log 5). -/
def Obligations.TwoDataMessagesComplete : Prop :=
  ∀ (ch : Channel) (s : State), s.i + 2 < s.len →
    let within := fun st => twoData st (s.buf.read (s.i + 1)) (s.buf.read (s.i + 2)) (s.i + 1) .lookAhead s
    let ends := fun i st => emitsThenResumes i s (within st) (resumed (s.i + 3) .iterStart (within st))
    ends (.noteOff ch) (0x8#4 ++ ch) ∧ ends (.noteOn ch) (0x9#4 ++ ch) ∧ ends (.polyPressure ch) (0xA#4 ++ ch) ∧
    ends (.controlChange ch) (0xB#4 ++ ch) ∧ ends (.pitchBend ch) (0xE#4 ++ ch) ∧ ends .songPosition 0xF2#8

/-- R116: with fewer than two bytes after the status byte, a two-data message emits nothing and the walk ends (the spec's
decision D9). -/
def Obligations.TwoDataMessagesDropWhenShort : Prop :=
  ∀ (ch : Channel) (s : State), s.len ≤ s.i + 2 →
    let after := fun st => Host.Outcome.next (short st (s.i + 1) s)
    exec (.noteOff ch) s = after (0x8#4 ++ ch) ∧ exec (.noteOn ch) s = after (0x9#4 ++ ch) ∧
    exec (.polyPressure ch) s = after (0xA#4 ++ ch) ∧ exec (.controlChange ch) s = after (0xB#4 ++ ch) ∧
    exec (.pitchBend ch) s = after (0xE#4 ++ ch) ∧ exec .songPosition s = after 0xF2#8

/-- R140 to R144, with R111: when the data byte is there, each of the four one-data messages takes it and emits, `d2` unchanged
and the cursor still at the byte; when the consumer returns the cursor moves past it (log 5). -/
def Obligations.OneDataMessagesComplete : Prop :=
  ∀ (ch : Channel) (s : State), s.i + 1 < s.len →
    let within := fun st => oneData st (s.buf.read (s.i + 1)) (s.i + 1) .lookAhead s
    let ends := fun i st => emitsThenResumes i s (within st) (resumed (s.i + 2) .iterStart (within st))
    ends (.programChange ch) (0xC#4 ++ ch) ∧ ends (.channelPressure ch) (0xD#4 ++ ch) ∧
    ends .timeCode 0xF1#8 ∧ ends .songSelect 0xF3#8

/-- R117: with no byte after the status byte, a one-data message emits nothing and the walk ends (the spec's decision D9). -/
def Obligations.OneDataMessagesDropWhenShort : Prop :=
  ∀ (ch : Channel) (s : State), s.len ≤ s.i + 1 →
    let after := fun st => Host.Outcome.next (short st (s.i + 1) s)
    exec (.programChange ch) s = after (0xC#4 ++ ch) ∧ exec (.channelPressure ch) s = after (0xD#4 ++ ch) ∧
    exec .timeCode s = after 0xF1#8 ∧ exec .songSelect s = after 0xF3#8

/-- R150 to R158, with R111: each of the seven zero-data messages emits with the data registers as they are, in every state; when
the consumer returns the cursor stays and the walk goes on, because step 1 took the status byte (log 5). -/
def Obligations.ZeroDataMessagesComplete : Prop :=
  ∀ s : State,
    let within := fun st => zeroData st (s.i + 1) .lookAhead s
    let ends := fun i st => emitsThenResumes i s (within st) (resumed (s.i + 1) .iterStart (within st))
    ends .tuneRequest 0xF6#8 ∧ ends .clock 0xF8#8 ∧ ends .start 0xFA#8 ∧ ends .continueMsg 0xFB#8 ∧ ends .stop 0xFC#8 ∧
    ends .activeSensing 0xFE#8 ∧ ends .sysReset 0xFF#8

/-- R160 to R166, with R111: each of the six unrecognised status values stays in `rs` and one byte after it is skipped, no event,
in every state. -/
def Obligations.OtherStatusMessagesSkipOneByte : Prop :=
  ∀ s : State,
    let after := fun st => Host.Outcome.next (skipped st (s.i + 2) s)
    exec .sysexStart s = after 0xF0#8 ∧ exec .undefF4 s = after 0xF4#8 ∧ exec .undefF5 s = after 0xF5#8 ∧
    exec .sysexEnd s = after 0xF7#8 ∧ exec .undefF9 s = after 0xF9#8 ∧ exec .undefFD s = after 0xFD#8

/-- R104: the framing byte seeds the accumulator with its low six bits times 128, whatever its two leading bits are, and leaves
the status register and the ports as they are; the corner cases of the rule. -/
def Obligations.FramingByteSeedsAccumulator : Prop :=
  (∀ (mark : BitVec 2) (th : StampHigh) (s : State), ∃ t, exec (.frame mark th) s = .next t ∧
    t.tsHigh = BitVec.ofNat 16 (th.toNat * 128) ∧ t.ts = t.tsHigh ∧ t.rs = s.rs ∧ t.outputs = s.outputs ∧
    t.inCallback = s.inCallback) ∧
  (∀ (s : State) (b : Byte), b ∈ [0x00#8, 0x40#8, 0x80#8, 0xC0#8] →
    ∃ t, exec (decodeFraming b) s = .next t ∧ t.tsHigh = 0#16) ∧
  (∀ (s : State) (b : Byte), b ∈ [0x3F#8, 0x7F#8, 0xBF#8, 0xFF#8] →
    ∃ t, exec (decodeFraming b) s = .next t ∧ t.tsHigh = 8064#16) ∧
  (∀ s : State, ∃ t, exec (decodeFraming 0x81#8) s = .next t ∧ t.tsHigh = 128#16)

/-- R103, with R104: the framing byte starts every invocation with the same registers; the zero data registers are the spec's
decision D11, the clear `tsLowSeen` its decision D5 (log 9). -/
def Obligations.FramingByteInitialisesInvocation : Prop :=
  ∀ (mark : BitVec 2) (th : StampHigh) (s : State),
    exec (.frame mark th) s = .next { s with
      tsHigh := BitVec.ofNat 16 (th.toNat * 128), ts := BitVec.ofNat 16 (th.toNat * 128)
      tsLowPrev := 0#7, tsLowSeen := false, d1 := 0x00#8, d2 := 0x00#8, i := 1, phase := .iterStart }

/-- R107 to R109: a timestamp byte, with the wrap-around test written out: unsigned, equality included, none for the first
timestamp byte of an invocation (the spec's decisions D4 to D6; log 9); the look-ahead comes next. -/
def Obligations.TimestampByteReconstructs : Prop :=
  ∀ (low : StampLow) (s : State),
    let high := if s.tsLowSeen = true ∧ low.toNat ≤ s.tsLowPrev.toNat then s.tsHigh + 128#16 else s.tsHigh
    exec (.ts low) s = .next { s with
      tsHigh := high, tsLowPrev := low, tsLowSeen := true, ts := high + BitVec.ofNat 16 low.toNat
      i := s.i + 1, phase := .lookAhead }

/-- R110: after a timestamp byte is consumed the cursor is one further. -/
def Obligations.TimestampByteAdvancesCursor : Prop :=
  ∀ (low : StampLow) (s : State), ∃ t, exec (.ts low) s = .next t ∧ t.i = s.i + 1

/-- R109, R124 (c), R120 (f): from an accumulator that is a multiple of 128 (R22) the low seven bits of the timestamp are the
timestamp-low and the high nine are the accumulator's, which stays a multiple of 128. -/
def Obligations.TimestampKeepsItsTwoParts : Prop :=
  ∀ (low : StampLow) (s t : State), s.tsHigh.toNat % 128 = 0 → exec (.ts low) s = .next t →
    t.ts.extractLsb' 0 7 = low ∧ t.ts.extractLsb' 7 9 = t.tsHigh.extractLsb' 7 9 ∧ t.tsHigh.toNat % 128 = 0

/-- R112 to R117, R130, R140, R150, R158, R160: a message under running status, in every form: no status yet, data there or
missing for arity 2 and 1, arity 0 with and without a timestamp byte before it in its iteration (the stall test is the spec's
decision D10), an unrecognised status. The cursor moves, and the stall test is made, when the consumer returns (log 5). `rs`
never changes. -/
def Obligations.RunningStatusMessageCompletes : Prop :=
  ∀ (d : Byte) (s : State),
    (s.rs = 0x00#8 → exec (.run d) s = .next (short s.rs s.i s)) ∧
    (s.rs ≠ 0x00#8 → arity s.rs = .two →
      (s.i + 1 < s.len →
        let within := twoData s.rs d (s.buf.read (s.i + 1)) s.i s.phase s
        emitsThenResumes (.run d) s within (resumed (s.i + 2) .iterStart within)) ∧
      (s.len ≤ s.i + 1 → exec (.run d) s = .next (short s.rs s.i s))) ∧
    (s.rs ≠ 0x00#8 → arity s.rs = .one →
      (s.i < s.len →
        let within := oneData s.rs d s.i s.phase s
        emitsThenResumes (.run d) s within (resumed (s.i + 1) .iterStart within)) ∧
      (s.len ≤ s.i → exec (.run d) s = .next (short s.rs s.i s))) ∧
    (s.rs ≠ 0x00#8 → arity s.rs = .zero →
      let within := zeroData s.rs s.i s.phase s
      (s.phase = .iterStart → emitsThenResumes (.run d) s within (resumed s.i .walkEnded within)) ∧
      (s.phase ≠ .iterStart → emitsThenResumes (.run d) s within (resumed s.i .iterStart within))) ∧
    (s.rs ≠ 0x00#8 → arity s.rs = .other → exec (.run d) s = .next (skipped s.rs (s.i + 1) s))

/-- R112: running status is left unchanged by a timestamp byte and by a message under running status, and the end of the
invocation clears it. -/
def Obligations.RunningStatusCarriesOver : Prop :=
  (∀ (d : Byte) (s t : State), exec (.run d) s = .next t → t.rs = s.rs) ∧
  (∀ (low : StampLow) (s t : State), exec (.ts low) s = .next t → t.rs = s.rs) ∧
  (∀ s : State, (endInvocation s).rs = 0x00#8)

/-- R56, R173, R178: a successful SEND submits the five bytes 0x80, 0x80, command, data1, data2 in that order for every command
and data value, and they stand at offsets 0 to 4 of the outbound buffer. That it succeeds whenever the one lookup gives a
connection is the spec's decisions D17 and D18 (log 9); that the bytes stay in the buffer after the SEND is log 24. -/
def Obligations.SendSerialisesFiveBytes : Prop :=
  ∀ (command d1 d2 : Byte) (c : Nat) (s : State), s.tx.wf → s.conn = some c → s.params.connNone ≠ some c →
    ∃ t, exec (.send command d1 d2) s = .next t ∧
      t.tx.read 0 = 0x80#8 ∧ t.tx.read 1 = 0x80#8 ∧ t.tx.read 2 = command ∧ t.tx.read 3 = d1 ∧ t.tx.read 4 = d2 ∧
      t.outputs = s.outputs ++
        [.notify c s.params.chanOut [0x80#8, 0x80#8, command, d1, d2] 5, .sendResult true]

/-- R56: whatever SEND submits, and whether or not it submits, a submission it makes is the five bytes 0x80, 0x80, command, data1,
data2, and they are the bytes of the buffer that the SEND fills in the order of its offsets, offset 0 first. The buffer is taken
within the SEND, as filled over whatever stood in it before; nothing is said of it after the SEND. -/
def Obligations.SubmittedBytesInWireOrder : Prop :=
  ∀ (command d1 d2 : Byte) (s t : State), s.tx.wf → exec (.send command d1 d2) s = .next t →
    ∃ new, t.outputs = s.outputs ++ new ∧
      ∀ c ch bytes n, Output.notify c ch bytes n ∈ new →
        bytes = [0x80#8, 0x80#8, command, d1, d2] ∧ n = 5 ∧
        ∀ before : Memory, before.wf →
          let tx := serializedFrame command d1 d2 before
          bytes = [tx.read 0, tx.read 1, tx.read 2, tx.read 3, tx.read 4]

/-- R170, R172, R174, R176: with no connection, or the sentinel in its place, SEND writes and submits nothing and its result is
0; with one it submits once and its result is 1 (one lookup and certain acceptance are the spec's decisions D17, D18). -/
def Obligations.SendResultIsTheConnection : Prop :=
  ∀ (command d1 d2 : Byte) (s : State),
    ((s.conn = none ∨ ∃ c, s.conn = some c ∧ s.params.connNone = some c) →
      exec (.send command d1 d2) s = .next { s with outputs := s.outputs ++ [.sendResult false] }) ∧
    (∀ c, s.conn = some c → s.params.connNone ≠ some c →
      ∃ t bytes, exec (.send command d1 d2) s = .next t ∧ bytes.length = 5 ∧
        t.outputs = s.outputs ++ [.notify c s.params.chanOut bytes 5, .sendResult true])

/-! ### Frames: what each instruction leaves unchanged -/

/-- The 23 status messages: unchanged but for `rs`, the cursor, the data registers their category populates, and the event port. -/
def Obligations.StatusMessageFrame : Prop :=
  ∀ (i : Instr) (s t : State), positionOf i = .lookAhead → exec i s = .next t →
    sameMemory s t ∧ samePorts s t ∧ sameStamps s t ∧ t.decBusy = s.decBusy ∧ encode i = [t.rs] ∧
    (arity t.rs ≠ .two → t.d2 = s.d2) ∧ (arity t.rs = .zero ∨ arity t.rs = .other → t.d1 = s.d1) ∧
    (arity t.rs = .other → t.outputs = s.outputs ∧ t.inCallback = s.inCallback)

/-- RUN: unchanged but for the cursor, the data registers the status in force populates, and the event port. -/
def Obligations.RunFrame : Prop :=
  ∀ (d : Byte) (s t : State), exec (.run d) s = .next t →
    sameMemory s t ∧ samePorts s t ∧ sameStamps s t ∧ t.decBusy = s.decBusy ∧ t.rs = s.rs ∧
    (arity s.rs ≠ .two → t.d2 = s.d2) ∧ (arity s.rs = .zero ∨ arity s.rs = .other → t.d1 = s.d1) ∧
    (arity s.rs = .other ∨ s.rs = 0x00#8 → t.outputs = s.outputs ∧ t.inCallback = s.inCallback)

/-- FRAME and TS: no memory, no port, no status register; TS leaves the data registers. -/
def Obligations.FramingAndTimestampFrame : Prop :=
  (∀ (mark : BitVec 2) (th : StampHigh) (s t : State), exec (.frame mark th) s = .next t →
    sameMemory s t ∧ samePorts s t ∧ t.decBusy = s.decBusy ∧ t.rs = s.rs ∧ t.inCallback = s.inCallback ∧
    t.outputs = s.outputs) ∧
  (∀ (low : StampLow) (s t : State), exec (.ts low) s = .next t →
    sameMemory s t ∧ samePorts s t ∧ t.decBusy = s.decBusy ∧ t.rs = s.rs ∧ t.inCallback = s.inCallback ∧
    t.outputs = s.outputs ∧ t.d1 = s.d1 ∧ t.d2 = s.d2)

/-- SEND: every register of the Decoder, the ports and the inbound frame are unchanged; of the outbound buffer at most the
offsets 0 to 4, and none when there is no connection (R44, R58, R63); that the buffer is there after the SEND is log 24. -/
def Obligations.SendFrame : Prop :=
  ∀ (command d1 d2 : Byte) (s t : State), s.tx.wf → exec (.send command d1 d2) s = .next t →
    t.rs = s.rs ∧ t.d1 = s.d1 ∧ t.d2 = s.d2 ∧ t.i = s.i ∧ sameStamps s t ∧ samePorts s t ∧ t.decBusy = s.decBusy ∧
    t.phase = s.phase ∧ t.inCallback = s.inCallback ∧ t.len = s.len ∧ (∀ a, t.buf.read a = s.buf.read a) ∧
    (∀ a, 5 ≤ a → t.tx.read a = s.tx.read a) ∧
    (s.conn = none ∨ s.conn = s.params.connNone → ∀ a, t.tx.read a = s.tx.read a)

/-! ### Steps -/

/-- R87, R104, R107, R111, R193: when the byte at the cursor decodes to an instruction, a step is exec of it: at offset 0 before the
walk, at the start of an iteration, in the look-ahead; a SEND request runs SEND whatever the Decoder does, and a turn of the codec
is the codec's move. That one step is one instruction is log 3; that the hosts' actions come from a list with a turn for the codec
is log 4, on which the third clause rests whole; that a SEND is one step is log 17 (the spec's decision D22). -/
def Obligations.StepRunsDecodedInstruction : Prop :=
  (∀ (s : State) (i : Instr) (rest : List Byte), decoderFree s →
    (s.phase = .framing → 0 < s.len → decode .framing [s.buf.read 0] = .ok (i, rest) → step s = exec i s) ∧
    (s.phase = .iterStart → s.i < s.len → decode .iterStart [s.buf.read s.i] = .ok (i, rest) → step s = exec i s) ∧
    (s.phase = .lookAhead → s.i < s.len → decode .lookAhead [s.buf.read s.i] = .ok (i, rest) → step s = exec i s)) ∧
  (∀ (s : State) (c d e : Byte) (rest : List Input), taking s (.send c d e) rest →
    step s = exec (.send c d e) { s with inputs := rest }) ∧
  (∀ (s : State) (rest : List Input), taking s .turn rest →
    step s = runMove (codecMove { s with inputs := rest }))

/-- R106, R122: when the cursor has reached the length, and after the walk has ended, the next step is the end of the invocation:
running status zero, not busy, the frame released (R50; log 15), completion reported. -/
def Obligations.InvocationEndsWithStatusZero : Prop :=
  ∀ s : State, decoderFree s → (s.phase = .walkEnded ∨ s.phase = .iterStart ∧ s.len ≤ s.i) →
    step s = .next { s with
      rs := 0x00#8, decBusy := false, buf := [], len := 0, phase := .walkEnded
      outputs := s.outputs ++ [.decodeDone] }

/-- R111, R208 (SC8): after a timestamp byte that was the last byte nothing is read, and steps 2 and 3 run with the cursor at the
length: arity 2 and 1 end the walk, arity 0 emits with the cursor held, an unrecognised status moves the cursor past the length (the guarded look-ahead
is the spec's decision D7; log 18). -/
def Obligations.TimestampByteAtTheEnd : Prop :=
  ∀ s : State, decoderFree s → s.phase = .lookAhead → s.i = s.len →
    (s.rs = 0x00#8 ∨ arity s.rs = .two ∨ arity s.rs = .one → step s = .next (short s.rs s.i s)) ∧
    (s.rs ≠ 0x00#8 → arity s.rs = .zero → step s = .next (zeroData s.rs s.i .lookAhead s)) ∧
    (s.rs ≠ 0x00#8 → arity s.rs = .other → step s = .next (skipped s.rs (s.len + 1) s))

/-- R118, R115, R158, R213, R214: while the consumer holds an event the codec's only move is its return, after which the walk
resumes at the statement after `Emit()`: the cursor moves by 2 or 1 under arity 2 or 1, under arity 0 the stall test is made, and
nothing else changes (that it returns at the codec's next move is the model's choice, log 5); an idle codec with nothing asked of
it waits (R232; log 16). -/
def Obligations.ConsumerReturnAndIdle : Prop :=
  ∀ s : State, hostsQuiet s →
    (s.inCallback = true →
      (arity s.rs = .two → step s = .next (resumed (s.i + 2) .iterStart s)) ∧
      (arity s.rs = .one → step s = .next (resumed (s.i + 1) .iterStart s)) ∧
      (arity s.rs = .zero → s.phase = .iterStart → step s = .next (resumed s.i .walkEnded s)) ∧
      (arity s.rs = .zero → s.phase ≠ .iterStart → step s = .next (resumed s.i .iterStart s))) ∧
    (s.inCallback = false → s.decBusy = false → step s = .next s)

/-- R185, R239: REGISTER replaces the target and enables the consumer port; during a DECODE it is refused. -/
def Obligations.RegisterReplacesTarget : Prop :=
  ∀ (target : Nat) (rest : List Input) (s : State), taking s (.register target) rest →
    (s.decBusy = false → target < 2 ^ s.params.targetW →
      step s = .next { s with inputs := rest, consTarget := target, consReg := true }) ∧
    (s.decBusy = true → step s = .refused .registerWhileBusy)

/-- R230, R233: RESET zeroes running status, the registration and the busy bit, and leaves the parameters, the connection, the
frame and the outputs; nothing is said of the registers the rule leaves unspecified. During a DECODE it is refused. -/
def Obligations.ResetRequestClears : Prop :=
  ∀ (rest : List Input) (s : State), taking s .reset rest →
    (s.decBusy = false → ∃ t, step s = .next t ∧ t.rs = 0x00#8 ∧ t.consReg = false ∧ t.decBusy = false ∧
      t.params = s.params ∧ t.conn = s.conn ∧ t.inputs = rest ∧ t.outputs = s.outputs ∧ t.buf = s.buf ∧ t.len = s.len) ∧
    (s.decBusy = true → step s = .refused .resetWhileBusy)

/-- R101, R102, R123, R187, R238, R241: a DECODE request makes the Decoder busy with the frame at hand; the walk starts exactly
when the frame has three bytes and a consumer is registered; running status and the invocation registers are not written; an
overlapping request, and one that provides fewer bytes than it states, are refused. -/
def Obligations.DecodeRequestEntryChecks : Prop :=
  ∀ (bytes : List Byte) (n : Nat) (rest : List Input) (s : State), taking s (.decode bytes n) rest →
    (s.decBusy = false → n ≤ s.params.lenMax → n ≤ bytes.length →
      ∃ m, step s = .next { s with
          inputs := rest, decBusy := true, buf := m, len := n
          phase := if 3 ≤ n ∧ s.consReg = true then .framing else .walkEnded } ∧
        m.wf ∧ ∀ a, a < n → m.read a = bytes.getD a 0#8) ∧
    (s.decBusy = true → step s = .refused .decodeWhileBusy) ∧
    (s.decBusy = false → n ≤ s.params.lenMax → bytes.length < n → step s = .refused .frameNotReadable)

/-- R241, R65, R193: across every step of a DECODE the frame and its length are the same; a transport action that alters a byte of the
frame or its length is refused; one that alters neither is accepted without effect (log 11), and the connection may change at any
time. -/
def Obligations.FrameIsStableDuringDecode : Prop :=
  (∀ s t : State, s.Inv → step s = .next t → s.decBusy = true → t.decBusy = true →
    t.len = s.len ∧ ∀ a, t.buf.read a = s.buf.read a) ∧
  ∀ (rest : List Input) (s : State),
    (∀ a b, taking s (.bufferByte a b) rest → s.decBusy = true →
      (a < s.len → b ≠ s.buf.read a → step s = .refused .frameChanged) ∧
      (s.len ≤ a ∨ b = s.buf.read a → step s = .next { s with inputs := rest })) ∧
    (∀ n, taking s (.bufferLength n) rest → s.decBusy = true →
      (n ≠ s.len → step s = .refused .frameChanged) ∧ (n = s.len → step s = .next { s with inputs := rest })) ∧
    (∀ c, taking s (.connection c) rest → (∀ k ∈ c, k < 2 ^ s.params.connW) →
      step s = .next { s with inputs := rest, conn := c })

/-! ### Invariants and rules of the whole machine -/

/-- The state after reset meets the invariant. -/
def Obligations.ResetMeetsInvariant : Prop := State.reset.Inv

/-- Every step keeps the invariant: canonical buffers, a legal running status that is zero when idle, the cursor's range, the
accumulator a multiple of 128, a timestamp byte before every status, legal events (R21, R22, R27, R120). -/
def Obligations.StepKeepsInvariant : Prop :=
  ∀ s t : State, s.Inv → step s = .next t → t.Inv

/-- R200, R247: from a good state no step faults, and a step is refused exactly when the host action it takes breaks a duty. That a
broken duty is refused is log 11, and `keepsDuties` counts an identifier wider than its port among them (log 12); that a step is
always possible when the hosts are quiet rests on the consumer's return (log 5) and the waiting of an idle codec (log 16). -/
def Obligations.OnlyBrokenDutiesStopTheCodec : Prop :=
  ∀ s : State, s.Inv →
    (∀ f, step s ≠ .fault f) ∧
    (s.inputs = [] → ∃ t, step s = .next t) ∧
    (∀ a rest, taking s a rest → keepsDuties a s = true → ∃ t, step s = .next t) ∧
    (∀ a rest, taking s a rest → keepsDuties a s = false → ∃ r, step s = .refused r)

/-- R21, R216 (a): running status changes only when the look-ahead takes a byte with bit 7 set from the frame, at the end of an
invocation, and at RESET, where it becomes zero. -/
def Obligations.RunningStatusHasThreeWriters : Prop :=
  ∀ s t : State, step s = .next t → t.rs ≠ s.rs →
    (s.phase = .lookAhead ∧ s.i < s.len ∧ t.rs = s.buf.read s.i ∧ t.rs.msb = true) ∨
    (t.rs = 0x00#8 ∧ s.decBusy = true ∧ t.decBusy = false) ∨
    (t.rs = 0x00#8 ∧ ∃ rest, taking s .reset rest)

/-- R216 (b), R7, R34: the registration changes only at REGISTER and RESET, the connection only by the transport, the parameters
never. -/
def Obligations.OwnershipOfPortState : Prop :=
  ∀ s t : State, step s = .next t →
    t.params = s.params ∧
    (t.consReg = s.consReg ∧ t.consTarget = s.consTarget ∨
      (∃ k rest, taking s (.register k) rest) ∨ ∃ rest, taking s .reset rest) ∧
    (t.conn = s.conn ∨ ∃ c rest, taking s (.connection c) rest ∧ t.conn = c)

/-- R118, R119, R120 (a, d), R36: from a good state one step presents at most one event, only while a DECODE is in progress with a
registered consumer; its fields are the constant header and the registers after the step, its command has bit 7 set, and the
consumer then holds it. -/
def Obligations.EventsCarryTheRegisters : Prop :=
  ∀ s t : State, s.Inv → step s = .next t →
    ∃ new, t.outputs = s.outputs ++ new ∧ new.countP isEvent ≤ 1 ∧
      ∀ target e ok, Output.event target e ok ∈ new →
        s.decBusy = true ∧ s.consReg = true ∧ target = s.consTarget ∧
        e = ⟨0x80#8, t.ts, t.rs, t.d1, t.d2⟩ ∧ ok = dataOk (arity t.rs) t.d1 t.d2 ∧ t.rs.msb = true ∧
        t.inCallback = true ∧ s.inCallback = false

/-- R62, R118, R213: while the consumer holds an event, a step that does not end the call-out changes no register of the Decoder and
delivers no event, whatever the hosts do meanwhile. -/
def Obligations.DecoderWaitsForConsumer : Prop :=
  ∀ s t : State, s.Inv → s.inCallback = true → step s = .next t → t.inCallback = true →
    t.rs = s.rs ∧ t.d1 = s.d1 ∧ t.d2 = s.d2 ∧ t.i = s.i ∧ t.phase = s.phase ∧ sameStamps s t ∧ t.decBusy = s.decBusy ∧
    t.outputs.countP isEvent = s.outputs.countP isEvent

/-- R63, R44: a SEND before any instruction of the walk changes nothing of what that instruction does: the same next state, but for
the outbound buffer and the place of the SEND's own outputs. -/
def Obligations.SendDoesNotDisturbTheWalk : Prop :=
  ∀ (command d1 d2 : Byte) (i : Instr) (s s' t : State), positionOf i ≠ .outbound →
    exec (.send command d1 d2) s = .next s' → exec i s = .next t →
    ∃ new, t.outputs = s.outputs ++ new ∧ exec i s' = .next { t with tx := s'.tx, outputs := s'.outputs ++ new }

/-! ### DECODE as a whole -/

/-- R121, R122: from every good state with a DECODE in progress and the hosts quiet, the invocation ends within three moves a
byte and two more, with running status zero and no event outstanding (that the consumer returns is the spec's fairness
assumption D28, log 5). -/
def Obligations.DecodeAlwaysEnds : Prop :=
  ∀ s : State, s.Inv → s.decBusy = true → hostsQuiet s →
    ∃ k t, k ≤ 3 * s.len + 2 ∧ reaches k s t ∧ t.decBusy = false ∧ t.rs = 0x00#8 ∧ t.inCallback = false

/-- R123: a DECODE request on an idle codec delivers to the registered consumer exactly the events of the rule's pseudocode, in
order, then reports completion, and leaves the codec idle with running status zero. That it comes to its end rests on the
consumer's return (the spec's D28; log 5). -/
def Obligations.DecodeRefinesPseudocode : Prop :=
  ∀ (bytes : List Byte) (n : Nat) (s : State), decodePending s bytes n →
    ∃ k t, reaches k s t ∧ t.decBusy = false ∧ t.rs = 0x00#8 ∧ t.consReg = s.consReg ∧ t.consTarget = s.consTarget ∧
      t.outputs = s.outputs ++
        (decodedEvents s.consReg (Memory.ofBytes (bytes.take n)) n).map (fun d => .event s.consTarget d.1 d.2) ++
        [.decodeDone]

/-- R119: a frame of length `n` yields at most `n - 1` events, none when `n` is below 3, however far the run goes. -/
def Obligations.FrameYieldsFewerEventsThanBytes : Prop :=
  ∀ (bytes : List Byte) (n : Nat) (s : State), decodePending s bytes n →
    ∀ k t, reaches k s t →
      t.outputs.countP isEvent ≤ s.outputs.countP isEvent + (if n < 3 then 0 else n - 1)

/-- R122, R243 (vector S6): decoding a frame yields the same transactions whatever the codec did before: two idle states with the
same registration, whatever their other registers, take the same request, finish it, and present alike what they present, the
completion last. That they finish rests on the consumer's return (the spec's D28; log 5). -/
def Obligations.DecodingIsIdempotent : Prop :=
  ∀ (bytes : List Byte) (n : Nat) (s u : State), decodePending s bytes n → decodePending u bytes n →
    s.consReg = u.consReg → s.consTarget = u.consTarget →
    ∃ k t v new, reaches k s t ∧ reaches k u v ∧ t.inputs = [] ∧ v.inputs = [] ∧ t.decBusy = false ∧ v.decBusy = false ∧
      t.outputs = s.outputs ++ (new ++ [.decodeDone]) ∧ v.outputs = u.outputs ++ (new ++ [.decodeDone])

/-- R179 (c): a frame of the Encoder for a two-data command reads back as exactly one event with the same command and data and
timestamp 0, whatever the data. That the DECODE goes on to its end and reports completion rests on the consumer's return (the
spec's D28; log 5). -/
def Obligations.TwoDataFramesReadBack : Prop :=
  ∀ (command d1 d2 : Byte) (s : State), arity command = .two → s.consReg = true →
    decodePending s [0x80#8, 0x80#8, command, d1, d2] 5 →
    ∃ k t, reaches k s t ∧ t.decBusy = false ∧
      t.outputs = s.outputs ++
        [.event s.consTarget ⟨0x80#8, 0#16, command, d1, d2⟩ (!d1.msb && !d2.msb), .decodeDone]
end

