-- ==== Sys2Proof/Laws/Memory.lean ====
section
/-! SUPPORT. The laws of the byte buffers: every operation keeps the canonical form, a read after a write, what a filled buffer holds, and which offsets an operation can list. -/
namespace Sys2Proof.Machine

theorem Memory.wf_nil : Memory.wf [] := by simp [Memory.wf]

theorem Memory.wf_tail {c : Host.Cell} {m : Memory} (h : Memory.wf (c :: m)) : Memory.wf m :=
  ⟨(List.pairwise_cons.1 h.1).2, fun d hd => h.2 d (List.mem_cons_of_mem c hd)⟩

/-- Offsets below the first listed one read as unlisted. -/
theorem Memory.read_below {m : Memory} {a : Nat} (h : ∀ c ∈ m, a < c.1) : m.read a = Memory.unlisted := by
  induction m with
  | nil => rfl
  | cons c r ih =>
    obtain ⟨k, v⟩ := c
    have hk : a < k := h (k, v) (by simp)
    rw [Memory.read, if_neg (by omega)]
    exact ih fun d hd => h d (List.mem_cons_of_mem _ hd)

theorem Memory.push_wf {m : Memory} {a : Nat} {v : Byte} (h : m.wf) (hlow : ∀ c ∈ m, a < c.1) :
    (Memory.push a v m).wf := by
  unfold Memory.push
  split
  · exact h
  · rename_i hv
    refine ⟨List.pairwise_cons.2 ⟨fun d hd => hlow d hd, h.1⟩, ?_⟩
    intro d hd
    rcases List.mem_cons.1 hd with rfl | hd
    · exact hv
    · exact h.2 d hd

theorem Memory.mem_push {m : Memory} {a : Nat} {v : Byte} {c : Host.Cell} (h : c ∈ Memory.push a v m) :
    c = (a, v) ∨ c ∈ m := by
  unfold Memory.push at h
  split at h
  · exact .inr h
  · exact List.mem_cons.1 h

theorem Memory.read_push {m : Memory} {a x : Nat} {v : Byte} (hlow : ∀ c ∈ m, a < c.1) :
    (Memory.push a v m).read x = if x = a then v else m.read x := by
  unfold Memory.push
  split
  · rename_i hv
    split
    · rename_i hx
      subst hx hv
      exact Memory.read_below hlow
    · rfl
  · rw [Memory.read]
    rcases Nat.decEq a x with hne | rfl
    · rw [if_neg hne, if_neg (Ne.symm hne)]
    · simp

/-- A write lists at most one offset that was not listed. -/
theorem Memory.mem_write {m : Memory} {a : Nat} {v : Byte} {c : Host.Cell} (h : c ∈ m.write a v) :
    c = (a, v) ∨ c ∈ m := by
  induction m with
  | nil => simpa using Memory.mem_push h
  | cons d r ih =>
    obtain ⟨k, w⟩ := d
    rw [Memory.write] at h
    split at h
    · exact Memory.mem_push h
    · split at h
      · exact (Memory.mem_push h).imp_right (List.mem_cons_of_mem _)
      · rcases List.mem_cons.1 h with rfl | h
        · exact .inr (by simp)
        · exact (ih h).imp_right (List.mem_cons_of_mem _)

/-- A write keeps the canonical form. -/
theorem Memory.write_wf {m : Memory} (a : Nat) (v : Byte) (h : m.wf) : (m.write a v).wf := by
  induction m with
  | nil => exact Memory.push_wf h (by simp)
  | cons d r ih =>
    obtain ⟨k, w⟩ := d
    have hk := (List.pairwise_cons.1 h.1).1
    rw [Memory.write]
    split
    · rename_i hak
      refine Memory.push_wf h fun c hc => ?_
      rcases List.mem_cons.1 hc with rfl | hc
      · exact hak
      · exact Nat.lt_trans hak (hk c hc)
    · split
      · rename_i _ heq
        exact Memory.push_wf (Memory.wf_tail h) fun c hc => heq ▸ hk c hc
      · rename_i hak hne
        have hr := ih (Memory.wf_tail h)
        refine ⟨List.pairwise_cons.2 ⟨fun c hc => ?_, hr.1⟩, fun c hc => ?_⟩
        · rcases Memory.mem_write hc with rfl | hc
          · show k < a
            omega
          · exact hk c hc
        · rcases List.mem_cons.1 hc with rfl | hc
          · exact h.2 _ (by simp)
          · exact hr.2 c hc

/-- A read after a write: the byte written at its offset, every other byte as before. -/
theorem Memory.read_write {m : Memory} (a x : Nat) (v : Byte) (h : m.wf) :
    (m.write a v).read x = if x = a then v else m.read x := by
  induction m with
  | nil => exact Memory.read_push (by simp)
  | cons d r ih =>
    obtain ⟨k, w⟩ := d
    have hk := (List.pairwise_cons.1 h.1).1
    rw [Memory.write]
    split
    · rename_i hak
      refine Memory.read_push fun c hc => ?_
      rcases List.mem_cons.1 hc with rfl | hc
      · exact hak
      · exact Nat.lt_trans hak (hk c hc)
    · split
      · rename_i _ heq
        subst heq
        rw [Memory.read_push fun c hc => hk c hc, Memory.read]
        split
        · rfl
        · rename_i hx
          rw [if_neg (Ne.symm hx)]
      · rename_i hak hne
        rw [Memory.read, Memory.read, ih (Memory.wf_tail h)]
        by_cases hx : k = x
        · rw [if_pos hx, if_pos hx, if_neg (by omega)]
        · rw [if_neg hx, if_neg hx]

theorem Memory.ofBytesFrom_low {a : Nat} {bs : List Byte} {c : Host.Cell} (h : c ∈ Memory.ofBytesFrom a bs) :
    a ≤ c.1 ∧ c.1 < a + bs.length := by
  induction bs generalizing a with
  | nil => simp [Memory.ofBytesFrom] at h
  | cons b bs ih =>
    rcases Memory.mem_push h with rfl | h
    · simp
    · have := ih h
      simp only [List.length_cons]
      omega

theorem Memory.ofBytesFrom_wf (a : Nat) (bs : List Byte) : (Memory.ofBytesFrom a bs).wf := by
  induction bs generalizing a with
  | nil => exact Memory.wf_nil
  | cons b bs ih => exact Memory.push_wf (ih (a + 1)) fun c hc => (Memory.ofBytesFrom_low hc).1

/-- A buffer filled from a list is in canonical form. -/
theorem Memory.ofBytes_wf (bs : List Byte) : (Memory.ofBytes bs).wf := Memory.ofBytesFrom_wf 0 bs

/-- A buffer filled from a list lists no offset past its end. -/
theorem Memory.ofBytes_bound {bs : List Byte} {c : Host.Cell} (h : c ∈ Memory.ofBytes bs) : c.1 < bs.length := by
  have := (Memory.ofBytesFrom_low h).2
  omega

theorem Memory.read_ofBytesFrom (a x : Nat) (bs : List Byte) :
    (Memory.ofBytesFrom a bs).read (a + x) = bs.getD x Memory.unlisted := by
  induction bs generalizing a x with
  | nil => simp [Memory.ofBytesFrom, Memory.read]
  | cons b bs ih =>
    rw [Memory.ofBytesFrom, Memory.read_push fun c hc => (Memory.ofBytesFrom_low hc).1]
    cases x with
    | zero => simp
    | succ x =>
      rw [if_neg (by omega), show a + (x + 1) = a + 1 + x by omega, ih]
      simp

/-- A buffer filled from a list holds its bytes in order. -/
theorem Memory.read_ofBytes (x : Nat) (bs : List Byte) :
    (Memory.ofBytes bs).read x = bs.getD x Memory.unlisted := by
  have := Memory.read_ofBytesFrom 0 x bs
  rwa [Nat.zero_add] at this

theorem memRead_of_lt {s : State} {a : Nat} (h : a < s.len) : memRead s a = some (s.buf.read a) := if_pos h

theorem memRead_of_ge {s : State} {a : Nat} (h : s.len ≤ a) : memRead s a = none := if_neg (by omega)

end Sys2Proof.Machine
end

