-- ==== Sys2Proof/Laws/State.lean ====
section
/-! SUPPORT. One lemma per field and per shared update of State, each true by rfl (the consumer's return by cases): later proofs never unfold a record update. -/
namespace Sys2Proof.Machine

section
variable (s : State)
@[simp] theorem endWalk_params : (endWalk s).params = s.params := rfl
@[simp] theorem endWalk_rs : (endWalk s).rs = s.rs := rfl
@[simp] theorem endWalk_consReg : (endWalk s).consReg = s.consReg := rfl
@[simp] theorem endWalk_consTarget : (endWalk s).consTarget = s.consTarget := rfl
@[simp] theorem endWalk_decBusy : (endWalk s).decBusy = s.decBusy := rfl
@[simp] theorem endWalk_tsHigh : (endWalk s).tsHigh = s.tsHigh := rfl
@[simp] theorem endWalk_tsLowPrev : (endWalk s).tsLowPrev = s.tsLowPrev := rfl
@[simp] theorem endWalk_tsLowSeen : (endWalk s).tsLowSeen = s.tsLowSeen := rfl
@[simp] theorem endWalk_ts : (endWalk s).ts = s.ts := rfl
@[simp] theorem endWalk_d1 : (endWalk s).d1 = s.d1 := rfl
@[simp] theorem endWalk_d2 : (endWalk s).d2 = s.d2 := rfl
@[simp] theorem endWalk_i : (endWalk s).i = s.i := rfl
@[simp] theorem endWalk_tx : (endWalk s).tx = s.tx := rfl
@[simp] theorem endWalk_buf : (endWalk s).buf = s.buf := rfl
@[simp] theorem endWalk_len : (endWalk s).len = s.len := rfl
@[simp] theorem endWalk_conn : (endWalk s).conn = s.conn := rfl
@[simp] theorem endWalk_phase : (endWalk s).phase = .walkEnded := rfl
@[simp] theorem endWalk_inCallback : (endWalk s).inCallback = s.inCallback := rfl
@[simp] theorem endWalk_inputs : (endWalk s).inputs = s.inputs := rfl
@[simp] theorem endWalk_outputs : (endWalk s).outputs = s.outputs := rfl
@[simp] theorem endWalk_freeCount : (endWalk s).freeCount = s.freeCount := rfl
end

section
variable (n : Nat) (s : State)
@[simp] theorem endIteration_params : (endIteration n s).params = s.params := rfl
@[simp] theorem endIteration_rs : (endIteration n s).rs = s.rs := rfl
@[simp] theorem endIteration_consReg : (endIteration n s).consReg = s.consReg := rfl
@[simp] theorem endIteration_consTarget : (endIteration n s).consTarget = s.consTarget := rfl
@[simp] theorem endIteration_decBusy : (endIteration n s).decBusy = s.decBusy := rfl
@[simp] theorem endIteration_tsHigh : (endIteration n s).tsHigh = s.tsHigh := rfl
@[simp] theorem endIteration_tsLowPrev : (endIteration n s).tsLowPrev = s.tsLowPrev := rfl
@[simp] theorem endIteration_tsLowSeen : (endIteration n s).tsLowSeen = s.tsLowSeen := rfl
@[simp] theorem endIteration_ts : (endIteration n s).ts = s.ts := rfl
@[simp] theorem endIteration_d1 : (endIteration n s).d1 = s.d1 := rfl
@[simp] theorem endIteration_d2 : (endIteration n s).d2 = s.d2 := rfl
@[simp] theorem endIteration_i : (endIteration n s).i = s.i + n := rfl
@[simp] theorem endIteration_tx : (endIteration n s).tx = s.tx := rfl
@[simp] theorem endIteration_buf : (endIteration n s).buf = s.buf := rfl
@[simp] theorem endIteration_len : (endIteration n s).len = s.len := rfl
@[simp] theorem endIteration_conn : (endIteration n s).conn = s.conn := rfl
@[simp] theorem endIteration_phase : (endIteration n s).phase = .iterStart := rfl
@[simp] theorem endIteration_inCallback : (endIteration n s).inCallback = s.inCallback := rfl
@[simp] theorem endIteration_inputs : (endIteration n s).inputs = s.inputs := rfl
@[simp] theorem endIteration_outputs : (endIteration n s).outputs = s.outputs := rfl
@[simp] theorem endIteration_freeCount : (endIteration n s).freeCount = s.freeCount := rfl
end

section
variable (s : State)
@[simp] theorem emit_params : (emit s).params = s.params := rfl
@[simp] theorem emit_rs : (emit s).rs = s.rs := rfl
@[simp] theorem emit_consReg : (emit s).consReg = s.consReg := rfl
@[simp] theorem emit_consTarget : (emit s).consTarget = s.consTarget := rfl
@[simp] theorem emit_decBusy : (emit s).decBusy = s.decBusy := rfl
@[simp] theorem emit_tsHigh : (emit s).tsHigh = s.tsHigh := rfl
@[simp] theorem emit_tsLowPrev : (emit s).tsLowPrev = s.tsLowPrev := rfl
@[simp] theorem emit_tsLowSeen : (emit s).tsLowSeen = s.tsLowSeen := rfl
@[simp] theorem emit_ts : (emit s).ts = s.ts := rfl
@[simp] theorem emit_d1 : (emit s).d1 = s.d1 := rfl
@[simp] theorem emit_d2 : (emit s).d2 = s.d2 := rfl
@[simp] theorem emit_i : (emit s).i = s.i := rfl
@[simp] theorem emit_tx : (emit s).tx = s.tx := rfl
@[simp] theorem emit_buf : (emit s).buf = s.buf := rfl
@[simp] theorem emit_len : (emit s).len = s.len := rfl
@[simp] theorem emit_conn : (emit s).conn = s.conn := rfl
@[simp] theorem emit_phase : (emit s).phase = s.phase := rfl
@[simp] theorem emit_inCallback : (emit s).inCallback = true := rfl
@[simp] theorem emit_inputs : (emit s).inputs = s.inputs := rfl
@[simp] theorem emit_outputs : (emit s).outputs = s.outputs ++ [.event s.consTarget (eventOf s) (dataOk (arity s.rs) s.d1 s.d2)] := rfl
@[simp] theorem emit_freeCount : (emit s).freeCount = s.freeCount := rfl
end

section
variable (s : State)
/-- The return of the consumer changes nothing but the cursor, the phase and the call-out flag. -/
theorem consumerReturns_keeps :
    consumerReturns s = { s with i := (consumerReturns s).i, phase := (consumerReturns s).phase, inCallback := false } := by
  unfold consumerReturns afterEmit stallTest
  split <;> (try split) <;> rfl
@[simp] theorem consumerReturns_params : (consumerReturns s).params = s.params := by rw [consumerReturns_keeps]
@[simp] theorem consumerReturns_rs : (consumerReturns s).rs = s.rs := by rw [consumerReturns_keeps]
@[simp] theorem consumerReturns_consReg : (consumerReturns s).consReg = s.consReg := by rw [consumerReturns_keeps]
@[simp] theorem consumerReturns_consTarget : (consumerReturns s).consTarget = s.consTarget := by rw [consumerReturns_keeps]
@[simp] theorem consumerReturns_decBusy : (consumerReturns s).decBusy = s.decBusy := by rw [consumerReturns_keeps]
@[simp] theorem consumerReturns_tsHigh : (consumerReturns s).tsHigh = s.tsHigh := by rw [consumerReturns_keeps]
@[simp] theorem consumerReturns_tsLowPrev : (consumerReturns s).tsLowPrev = s.tsLowPrev := by rw [consumerReturns_keeps]
@[simp] theorem consumerReturns_tsLowSeen : (consumerReturns s).tsLowSeen = s.tsLowSeen := by rw [consumerReturns_keeps]
@[simp] theorem consumerReturns_ts : (consumerReturns s).ts = s.ts := by rw [consumerReturns_keeps]
@[simp] theorem consumerReturns_d1 : (consumerReturns s).d1 = s.d1 := by rw [consumerReturns_keeps]
@[simp] theorem consumerReturns_d2 : (consumerReturns s).d2 = s.d2 := by rw [consumerReturns_keeps]
@[simp] theorem consumerReturns_tx : (consumerReturns s).tx = s.tx := by rw [consumerReturns_keeps]
@[simp] theorem consumerReturns_buf : (consumerReturns s).buf = s.buf := by rw [consumerReturns_keeps]
@[simp] theorem consumerReturns_len : (consumerReturns s).len = s.len := by rw [consumerReturns_keeps]
@[simp] theorem consumerReturns_conn : (consumerReturns s).conn = s.conn := by rw [consumerReturns_keeps]
@[simp] theorem consumerReturns_inputs : (consumerReturns s).inputs = s.inputs := by rw [consumerReturns_keeps]
@[simp] theorem consumerReturns_outputs : (consumerReturns s).outputs = s.outputs := by rw [consumerReturns_keeps]
@[simp] theorem consumerReturns_freeCount : (consumerReturns s).freeCount = s.freeCount := by rw [consumerReturns_keeps]
@[simp] theorem consumerReturns_inCallback : (consumerReturns s).inCallback = false := by rw [consumerReturns_keeps]
end

section
variable (th : StampHigh) (s : State)
@[simp] theorem framingByte_params : (framingByte th s).params = s.params := rfl
@[simp] theorem framingByte_rs : (framingByte th s).rs = s.rs := rfl
@[simp] theorem framingByte_consReg : (framingByte th s).consReg = s.consReg := rfl
@[simp] theorem framingByte_consTarget : (framingByte th s).consTarget = s.consTarget := rfl
@[simp] theorem framingByte_decBusy : (framingByte th s).decBusy = s.decBusy := rfl
@[simp] theorem framingByte_tsHigh : (framingByte th s).tsHigh = th.setWidth 16 <<< 7 := rfl
@[simp] theorem framingByte_tsLowPrev : (framingByte th s).tsLowPrev = 0#7 := rfl
@[simp] theorem framingByte_tsLowSeen : (framingByte th s).tsLowSeen = false := rfl
@[simp] theorem framingByte_ts : (framingByte th s).ts = th.setWidth 16 <<< 7 := rfl
@[simp] theorem framingByte_d1 : (framingByte th s).d1 = 0#8 := rfl
@[simp] theorem framingByte_d2 : (framingByte th s).d2 = 0#8 := rfl
@[simp] theorem framingByte_i : (framingByte th s).i = 1 := rfl
@[simp] theorem framingByte_tx : (framingByte th s).tx = s.tx := rfl
@[simp] theorem framingByte_buf : (framingByte th s).buf = s.buf := rfl
@[simp] theorem framingByte_len : (framingByte th s).len = s.len := rfl
@[simp] theorem framingByte_conn : (framingByte th s).conn = s.conn := rfl
@[simp] theorem framingByte_phase : (framingByte th s).phase = .iterStart := rfl
@[simp] theorem framingByte_inCallback : (framingByte th s).inCallback = s.inCallback := rfl
@[simp] theorem framingByte_inputs : (framingByte th s).inputs = s.inputs := rfl
@[simp] theorem framingByte_outputs : (framingByte th s).outputs = s.outputs := rfl
@[simp] theorem framingByte_freeCount : (framingByte th s).freeCount = s.freeCount := rfl
end

section
variable (low : StampLow) (s : State)
@[simp] theorem timestampByte_params : (timestampByte low s).params = s.params := rfl
@[simp] theorem timestampByte_rs : (timestampByte low s).rs = s.rs := rfl
@[simp] theorem timestampByte_consReg : (timestampByte low s).consReg = s.consReg := rfl
@[simp] theorem timestampByte_consTarget : (timestampByte low s).consTarget = s.consTarget := rfl
@[simp] theorem timestampByte_decBusy : (timestampByte low s).decBusy = s.decBusy := rfl
@[simp] theorem timestampByte_tsHigh : (timestampByte low s).tsHigh = nextTsHigh s low := rfl
@[simp] theorem timestampByte_tsLowPrev : (timestampByte low s).tsLowPrev = low := rfl
@[simp] theorem timestampByte_tsLowSeen : (timestampByte low s).tsLowSeen = true := rfl
@[simp] theorem timestampByte_ts : (timestampByte low s).ts = nextTsHigh s low + low.setWidth 16 := rfl
@[simp] theorem timestampByte_d1 : (timestampByte low s).d1 = s.d1 := rfl
@[simp] theorem timestampByte_d2 : (timestampByte low s).d2 = s.d2 := rfl
@[simp] theorem timestampByte_i : (timestampByte low s).i = s.i + 1 := rfl
@[simp] theorem timestampByte_tx : (timestampByte low s).tx = s.tx := rfl
@[simp] theorem timestampByte_buf : (timestampByte low s).buf = s.buf := rfl
@[simp] theorem timestampByte_len : (timestampByte low s).len = s.len := rfl
@[simp] theorem timestampByte_conn : (timestampByte low s).conn = s.conn := rfl
@[simp] theorem timestampByte_phase : (timestampByte low s).phase = .lookAhead := rfl
@[simp] theorem timestampByte_inCallback : (timestampByte low s).inCallback = s.inCallback := rfl
@[simp] theorem timestampByte_inputs : (timestampByte low s).inputs = s.inputs := rfl
@[simp] theorem timestampByte_outputs : (timestampByte low s).outputs = s.outputs := rfl
@[simp] theorem timestampByte_freeCount : (timestampByte low s).freeCount = s.freeCount := rfl
end

section
variable (st : Byte) (s : State)
@[simp] theorem loadStatus_params : (loadStatus st s).params = s.params := rfl
@[simp] theorem loadStatus_rs : (loadStatus st s).rs = st := rfl
@[simp] theorem loadStatus_consReg : (loadStatus st s).consReg = s.consReg := rfl
@[simp] theorem loadStatus_consTarget : (loadStatus st s).consTarget = s.consTarget := rfl
@[simp] theorem loadStatus_decBusy : (loadStatus st s).decBusy = s.decBusy := rfl
@[simp] theorem loadStatus_tsHigh : (loadStatus st s).tsHigh = s.tsHigh := rfl
@[simp] theorem loadStatus_tsLowPrev : (loadStatus st s).tsLowPrev = s.tsLowPrev := rfl
@[simp] theorem loadStatus_tsLowSeen : (loadStatus st s).tsLowSeen = s.tsLowSeen := rfl
@[simp] theorem loadStatus_ts : (loadStatus st s).ts = s.ts := rfl
@[simp] theorem loadStatus_d1 : (loadStatus st s).d1 = s.d1 := rfl
@[simp] theorem loadStatus_d2 : (loadStatus st s).d2 = s.d2 := rfl
@[simp] theorem loadStatus_i : (loadStatus st s).i = s.i + 1 := rfl
@[simp] theorem loadStatus_tx : (loadStatus st s).tx = s.tx := rfl
@[simp] theorem loadStatus_buf : (loadStatus st s).buf = s.buf := rfl
@[simp] theorem loadStatus_len : (loadStatus st s).len = s.len := rfl
@[simp] theorem loadStatus_conn : (loadStatus st s).conn = s.conn := rfl
@[simp] theorem loadStatus_phase : (loadStatus st s).phase = .lookAhead := rfl
@[simp] theorem loadStatus_inCallback : (loadStatus st s).inCallback = s.inCallback := rfl
@[simp] theorem loadStatus_inputs : (loadStatus st s).inputs = s.inputs := rfl
@[simp] theorem loadStatus_outputs : (loadStatus st s).outputs = s.outputs := rfl
@[simp] theorem loadStatus_freeCount : (loadStatus st s).freeCount = s.freeCount := rfl
end

section
variable (s : State)
@[simp] theorem endInvocation_params : (endInvocation s).params = s.params := rfl
@[simp] theorem endInvocation_rs : (endInvocation s).rs = 0#8 := rfl
@[simp] theorem endInvocation_consReg : (endInvocation s).consReg = s.consReg := rfl
@[simp] theorem endInvocation_consTarget : (endInvocation s).consTarget = s.consTarget := rfl
@[simp] theorem endInvocation_decBusy : (endInvocation s).decBusy = false := rfl
@[simp] theorem endInvocation_tsHigh : (endInvocation s).tsHigh = s.tsHigh := rfl
@[simp] theorem endInvocation_tsLowPrev : (endInvocation s).tsLowPrev = s.tsLowPrev := rfl
@[simp] theorem endInvocation_tsLowSeen : (endInvocation s).tsLowSeen = s.tsLowSeen := rfl
@[simp] theorem endInvocation_ts : (endInvocation s).ts = s.ts := rfl
@[simp] theorem endInvocation_d1 : (endInvocation s).d1 = s.d1 := rfl
@[simp] theorem endInvocation_d2 : (endInvocation s).d2 = s.d2 := rfl
@[simp] theorem endInvocation_i : (endInvocation s).i = s.i := rfl
@[simp] theorem endInvocation_tx : (endInvocation s).tx = s.tx := rfl
@[simp] theorem endInvocation_buf : (endInvocation s).buf = [] := rfl
@[simp] theorem endInvocation_len : (endInvocation s).len = 0 := rfl
@[simp] theorem endInvocation_conn : (endInvocation s).conn = s.conn := rfl
@[simp] theorem endInvocation_phase : (endInvocation s).phase = .walkEnded := rfl
@[simp] theorem endInvocation_inCallback : (endInvocation s).inCallback = s.inCallback := rfl
@[simp] theorem endInvocation_inputs : (endInvocation s).inputs = s.inputs := rfl
@[simp] theorem endInvocation_outputs : (endInvocation s).outputs = s.outputs ++ [.decodeDone] := rfl
@[simp] theorem endInvocation_freeCount : (endInvocation s).freeCount = s.freeCount := rfl
end

section
variable (c d e : Byte) (s : State)
@[simp] theorem serialize_params : (serialize c d e s).params = s.params := rfl
@[simp] theorem serialize_rs : (serialize c d e s).rs = s.rs := rfl
@[simp] theorem serialize_consReg : (serialize c d e s).consReg = s.consReg := rfl
@[simp] theorem serialize_consTarget : (serialize c d e s).consTarget = s.consTarget := rfl
@[simp] theorem serialize_decBusy : (serialize c d e s).decBusy = s.decBusy := rfl
@[simp] theorem serialize_tsHigh : (serialize c d e s).tsHigh = s.tsHigh := rfl
@[simp] theorem serialize_tsLowPrev : (serialize c d e s).tsLowPrev = s.tsLowPrev := rfl
@[simp] theorem serialize_tsLowSeen : (serialize c d e s).tsLowSeen = s.tsLowSeen := rfl
@[simp] theorem serialize_ts : (serialize c d e s).ts = s.ts := rfl
@[simp] theorem serialize_d1 : (serialize c d e s).d1 = s.d1 := rfl
@[simp] theorem serialize_d2 : (serialize c d e s).d2 = s.d2 := rfl
@[simp] theorem serialize_i : (serialize c d e s).i = s.i := rfl
@[simp] theorem serialize_tx : (serialize c d e s).tx = serializedFrame c d e s.tx := rfl
@[simp] theorem serialize_buf : (serialize c d e s).buf = s.buf := rfl
@[simp] theorem serialize_len : (serialize c d e s).len = s.len := rfl
@[simp] theorem serialize_conn : (serialize c d e s).conn = s.conn := rfl
@[simp] theorem serialize_phase : (serialize c d e s).phase = s.phase := rfl
@[simp] theorem serialize_inCallback : (serialize c d e s).inCallback = s.inCallback := rfl
@[simp] theorem serialize_inputs : (serialize c d e s).inputs = s.inputs := rfl
@[simp] theorem serialize_outputs : (serialize c d e s).outputs = s.outputs := rfl
@[simp] theorem serialize_freeCount : (serialize c d e s).freeCount = s.freeCount := rfl
end

section
variable (c : Nat) (s : State)
@[simp] theorem submit_params : (submit c s).params = s.params := rfl
@[simp] theorem submit_rs : (submit c s).rs = s.rs := rfl
@[simp] theorem submit_consReg : (submit c s).consReg = s.consReg := rfl
@[simp] theorem submit_consTarget : (submit c s).consTarget = s.consTarget := rfl
@[simp] theorem submit_decBusy : (submit c s).decBusy = s.decBusy := rfl
@[simp] theorem submit_tsHigh : (submit c s).tsHigh = s.tsHigh := rfl
@[simp] theorem submit_tsLowPrev : (submit c s).tsLowPrev = s.tsLowPrev := rfl
@[simp] theorem submit_tsLowSeen : (submit c s).tsLowSeen = s.tsLowSeen := rfl
@[simp] theorem submit_ts : (submit c s).ts = s.ts := rfl
@[simp] theorem submit_d1 : (submit c s).d1 = s.d1 := rfl
@[simp] theorem submit_d2 : (submit c s).d2 = s.d2 := rfl
@[simp] theorem submit_i : (submit c s).i = s.i := rfl
@[simp] theorem submit_tx : (submit c s).tx = s.tx := rfl
@[simp] theorem submit_buf : (submit c s).buf = s.buf := rfl
@[simp] theorem submit_len : (submit c s).len = s.len := rfl
@[simp] theorem submit_conn : (submit c s).conn = s.conn := rfl
@[simp] theorem submit_phase : (submit c s).phase = s.phase := rfl
@[simp] theorem submit_inCallback : (submit c s).inCallback = s.inCallback := rfl
@[simp] theorem submit_inputs : (submit c s).inputs = s.inputs := rfl
@[simp] theorem submit_outputs : (submit c s).outputs = s.outputs ++ [.notify c s.params.chanOut (s.tx.bytes Config.txLen) Config.txLen] := rfl
@[simp] theorem submit_freeCount : (submit c s).freeCount = s.freeCount := rfl
end

section
variable (ok : Bool) (s : State)
@[simp] theorem sendResult_params : (sendResult ok s).params = s.params := rfl
@[simp] theorem sendResult_rs : (sendResult ok s).rs = s.rs := rfl
@[simp] theorem sendResult_consReg : (sendResult ok s).consReg = s.consReg := rfl
@[simp] theorem sendResult_consTarget : (sendResult ok s).consTarget = s.consTarget := rfl
@[simp] theorem sendResult_decBusy : (sendResult ok s).decBusy = s.decBusy := rfl
@[simp] theorem sendResult_tsHigh : (sendResult ok s).tsHigh = s.tsHigh := rfl
@[simp] theorem sendResult_tsLowPrev : (sendResult ok s).tsLowPrev = s.tsLowPrev := rfl
@[simp] theorem sendResult_tsLowSeen : (sendResult ok s).tsLowSeen = s.tsLowSeen := rfl
@[simp] theorem sendResult_ts : (sendResult ok s).ts = s.ts := rfl
@[simp] theorem sendResult_d1 : (sendResult ok s).d1 = s.d1 := rfl
@[simp] theorem sendResult_d2 : (sendResult ok s).d2 = s.d2 := rfl
@[simp] theorem sendResult_i : (sendResult ok s).i = s.i := rfl
@[simp] theorem sendResult_tx : (sendResult ok s).tx = s.tx := rfl
@[simp] theorem sendResult_buf : (sendResult ok s).buf = s.buf := rfl
@[simp] theorem sendResult_len : (sendResult ok s).len = s.len := rfl
@[simp] theorem sendResult_conn : (sendResult ok s).conn = s.conn := rfl
@[simp] theorem sendResult_phase : (sendResult ok s).phase = s.phase := rfl
@[simp] theorem sendResult_inCallback : (sendResult ok s).inCallback = s.inCallback := rfl
@[simp] theorem sendResult_inputs : (sendResult ok s).inputs = s.inputs := rfl
@[simp] theorem sendResult_outputs : (sendResult ok s).outputs = s.outputs ++ [.sendResult ok] := rfl
@[simp] theorem sendResult_freeCount : (sendResult ok s).freeCount = s.freeCount := rfl
end

section
variable (u : Unspecified) (s : State)
@[simp] theorem unspecifiedRegisters_params : (unspecifiedRegisters u s).params = s.params := rfl
@[simp] theorem unspecifiedRegisters_rs : (unspecifiedRegisters u s).rs = s.rs := rfl
@[simp] theorem unspecifiedRegisters_consReg : (unspecifiedRegisters u s).consReg = s.consReg := rfl
@[simp] theorem unspecifiedRegisters_consTarget : (unspecifiedRegisters u s).consTarget = u.target % 2 ^ s.params.targetW := rfl
@[simp] theorem unspecifiedRegisters_decBusy : (unspecifiedRegisters u s).decBusy = s.decBusy := rfl
@[simp] theorem unspecifiedRegisters_tsHigh : (unspecifiedRegisters u s).tsHigh = u.tsHigh := rfl
@[simp] theorem unspecifiedRegisters_tsLowPrev : (unspecifiedRegisters u s).tsLowPrev = u.tsLowPrev := rfl
@[simp] theorem unspecifiedRegisters_tsLowSeen : (unspecifiedRegisters u s).tsLowSeen = u.tsLowSeen := rfl
@[simp] theorem unspecifiedRegisters_ts : (unspecifiedRegisters u s).ts = u.ts := rfl
@[simp] theorem unspecifiedRegisters_d1 : (unspecifiedRegisters u s).d1 = u.d1 := rfl
@[simp] theorem unspecifiedRegisters_d2 : (unspecifiedRegisters u s).d2 = u.d2 := rfl
@[simp] theorem unspecifiedRegisters_i : (unspecifiedRegisters u s).i = u.cursor % (s.params.lenMax + 2) := rfl
@[simp] theorem unspecifiedRegisters_tx : (unspecifiedRegisters u s).tx = Memory.ofBytes [u.tx0, u.tx1, u.tx2, u.tx3, u.tx4] := rfl
@[simp] theorem unspecifiedRegisters_buf : (unspecifiedRegisters u s).buf = s.buf := rfl
@[simp] theorem unspecifiedRegisters_len : (unspecifiedRegisters u s).len = s.len := rfl
@[simp] theorem unspecifiedRegisters_conn : (unspecifiedRegisters u s).conn = s.conn := rfl
@[simp] theorem unspecifiedRegisters_phase : (unspecifiedRegisters u s).phase = s.phase := rfl
@[simp] theorem unspecifiedRegisters_inCallback : (unspecifiedRegisters u s).inCallback = s.inCallback := rfl
@[simp] theorem unspecifiedRegisters_inputs : (unspecifiedRegisters u s).inputs = s.inputs := rfl
@[simp] theorem unspecifiedRegisters_outputs : (unspecifiedRegisters u s).outputs = s.outputs := rfl
@[simp] theorem unspecifiedRegisters_freeCount : (unspecifiedRegisters u s).freeCount = s.freeCount + 1 := rfl
end

/-- No register that an event is built from is changed by delivering it (R118). -/
@[simp] theorem eventOf_emit (s : State) : eventOf (emit s) = eventOf s := rfl

end Sys2Proof.Machine
end

