-- ==== Sys2Proof/Laws/Dispatch.lean ====
section
/-! SUPPORT. One lemma per shared operation of step 3 that says all it can do, every status message as the status tracker followed by steps 2 and 3, and exec's totality. -/
namespace Sys2Proof.Machine

/-! ### What the dispatch rules can do -/

/-- `t` is `s` but for what step 3 may change: the data registers, the cursor, the phase and the event port. -/
abbrev KeepsWalk (s t : State) : Prop :=
  t = { s with d1 := t.d1, d2 := t.d2, i := t.i, phase := t.phase, inCallback := t.inCallback, outputs := t.outputs }

theorem twoDataDispatch_available (b : Byte) (s : State) (h : s.i + 1 < s.len) :
    twoDataDispatch b s = emit { s with d1 := b, d2 := s.buf.read (s.i + 1) } :=
  if_pos (decide_eq_true h)

theorem twoDataDispatch_short (b : Byte) (s : State) (h : s.len ≤ s.i + 1) : twoDataDispatch b s = endWalk s :=
  if_neg (by simp only [twoAvailable, decide_eq_true_eq]; omega)

theorem oneDataDispatch_available (b : Byte) (s : State) (h : s.i < s.len) :
    oneDataDispatch b s = emit { s with d1 := b } :=
  if_pos (decide_eq_true h)

theorem oneDataDispatch_short (b : Byte) (s : State) (h : s.len ≤ s.i) : oneDataDispatch b s = endWalk s :=
  if_neg (by simp only [oneAvailable, decide_eq_true_eq]; omega)

/-- Where the walk resumes when the consumer returns, for each arity that emits (R115, R158, R214). -/
theorem consumerReturns_two (s : State) (h : arity s.rs = .two) :
    consumerReturns s = endIteration 2 { s with inCallback := false } := by
  simp only [consumerReturns, afterEmit, h]

theorem consumerReturns_one (s : State) (h : arity s.rs = .one) :
    consumerReturns s = endIteration 1 { s with inCallback := false } := by
  simp only [consumerReturns, afterEmit, h]

theorem consumerReturns_zero_stalled (s : State) (h : arity s.rs = .zero) (hp : s.phase = .iterStart) :
    consumerReturns s = endWalk { s with inCallback := false } := by
  simp only [consumerReturns, afterEmit, h]
  exact if_pos hp

theorem consumerReturns_zero_moved (s : State) (h : arity s.rs = .zero) (hp : s.phase ≠ .iterStart) :
    consumerReturns s = endIteration 0 { s with inCallback := false } := by
  simp only [consumerReturns, afterEmit, h]
  exact if_neg hp

/-- Step 3 after step 2 has passed, each arity with what it needs (the table of R115). -/
theorem carryOver_cases (b : Byte) (s : State) :
    (carryOver b s = endWalk s ∧
      (s.rs = 0#8 ∨ arity s.rs = .two ∧ s.len ≤ s.i + 1 ∨ arity s.rs = .one ∧ s.len ≤ s.i)) ∨
    (s.rs ≠ 0#8 ∧ arity s.rs = .two ∧ s.i + 1 < s.len ∧
      carryOver b s = emit { s with d1 := b, d2 := s.buf.read (s.i + 1) }) ∨
    (s.rs ≠ 0#8 ∧ arity s.rs = .one ∧ s.i < s.len ∧ carryOver b s = emit { s with d1 := b }) ∨
    (s.rs ≠ 0#8 ∧ arity s.rs = .zero ∧ carryOver b s = emit s) ∨
    (s.rs ≠ 0#8 ∧ arity s.rs = .other ∧ carryOver b s = endIteration 1 s) := by
  unfold carryOver
  by_cases hz : s.rs = 0#8
  · rw [if_pos hz]
    exact .inl ⟨rfl, .inl hz⟩
  · rw [if_neg hz]
    cases ha : arity s.rs with
    | two =>
      rcases Nat.lt_or_ge (s.i + 1) s.len with h | h
      · exact .inr (.inl ⟨hz, rfl, h, twoDataDispatch_available b s h⟩)
      · exact .inl ⟨twoDataDispatch_short b s h, .inr (.inl ⟨rfl, h⟩)⟩
    | one =>
      rcases Nat.lt_or_ge s.i s.len with h | h
      · exact .inr (.inr (.inl ⟨hz, rfl, h, oneDataDispatch_available b s h⟩))
      · exact .inl ⟨oneDataDispatch_short b s h, .inr (.inr ⟨rfl, h⟩)⟩
    | zero => exact .inr (.inr (.inr (.inl ⟨hz, rfl, rfl⟩)))
    | other => exact .inr (.inr (.inr (.inr ⟨hz, rfl, rfl⟩)))

/-- Steps 2 and 3 change nothing but the data registers, the cursor, the phase and the event port. -/
theorem carryOver_keepsWalk (b : Byte) (s : State) : KeepsWalk s (carryOver b s) := by
  rcases carryOver_cases b s with ⟨h, _⟩ | ⟨_, _, _, h⟩ | ⟨_, _, _, h⟩ | ⟨_, _, h⟩ | ⟨_, _, h⟩ <;>
    rw [h] <;> rfl

/-- With no byte at the cursor the byte passed to steps 2 and 3 is not used (R208). -/
theorem carryOver_atEnd (b c : Byte) (s : State) (h : s.len ≤ s.i) : carryOver b s = carryOver c s := by
  unfold carryOver
  split
  · rfl
  · split
    · rw [twoDataDispatch_short b s (by omega), twoDataDispatch_short c s (by omega)]
    · rw [oneDataDispatch_short b s h, oneDataDispatch_short c s h]
    · rfl
    · rfl

/-! ### Status messages -/

/-- A status byte of each arity, as the tracker followed by steps 2 and 3. -/
theorem carryOver_loadStatus (b st : Byte) (s : State) (h : st ≠ 0#8) :
    carryOver b (loadStatus st s) =
      match arity st with
      | .two   => twoDataDispatch b (loadStatus st s)
      | .one   => oneDataDispatch b (loadStatus st s)
      | .zero  => zeroDataDispatch (loadStatus st s)
      | .other => skipDispatch (loadStatus st s) := if_neg h

/-- A status byte decodes to an instruction whose encoding is that byte. -/
theorem encode_decodeStatus : ∀ b : Byte, b.msb = true → (decodeStatus b).map encode = some [b] := by decide

theorem decodeStatus_low : ∀ b : Byte, b.msb = false → decodeStatus b = none := by decide

/-- Only status messages are decoded from a status byte. -/
theorem positionOf_decodeStatus :
    ∀ b : Byte, ((decodeStatus b).all fun i => decide (positionOf i = .lookAhead)) = true := by decide

theorem arity_twoChannel : ∀ ch : Channel, arity (0x8#4 ++ ch) = .two ∧ arity (0x9#4 ++ ch) = .two ∧
    arity (0xA#4 ++ ch) = .two ∧ arity (0xB#4 ++ ch) = .two ∧ arity (0xE#4 ++ ch) = .two := by decide

theorem arity_oneChannel : ∀ ch : Channel, arity (0xC#4 ++ ch) = .one ∧ arity (0xD#4 ++ ch) = .one := by decide

theorem statusByte_ne_zero : ∀ ch : Channel, (0x8#4 ++ ch : Byte) ≠ 0#8 ∧ (0x9#4 ++ ch : Byte) ≠ 0#8 ∧
    (0xA#4 ++ ch : Byte) ≠ 0#8 ∧ (0xB#4 ++ ch : Byte) ≠ 0#8 ∧ (0xC#4 ++ ch : Byte) ≠ 0#8 ∧
    (0xD#4 ++ ch : Byte) ≠ 0#8 ∧ (0xE#4 ++ ch : Byte) ≠ 0#8 := by decide

/-- Every status message is the status tracker followed by steps 2 and 3 with the byte after the status byte. -/
theorem exec_decodeStatus {b : Byte} {i : Instr} (h : decodeStatus b = some i) (s : State) :
    exec i s = .next (carryOver (s.buf.read (s.i + 1)) (loadStatus b s)) := by
  have hmsb : b.msb = true := by
    cases hm : b.msb
    · rw [decodeStatus_low b hm] at h
      cases h
    · rfl
  have he : encode i = [b] := by simpa [h] using encode_decodeStatus b hmsb
  have hp : positionOf i = .lookAhead := by simpa [h] using positionOf_decodeStatus b
  cases i with
  | noteOff ch | noteOn ch | polyPressure ch | controlChange ch | pitchBend ch =>
    obtain rfl := (List.cons.inj he).1
    rw [carryOver_loadStatus _ _ _ (by have := statusByte_ne_zero ch; tauto)]
    simp only [exec, (arity_twoChannel ch)]
    rfl
  | programChange ch | channelPressure ch =>
    obtain rfl := (List.cons.inj he).1
    rw [carryOver_loadStatus _ _ _ (by have := statusByte_ne_zero ch; tauto)]
    simp only [exec, (arity_oneChannel ch)]
    rfl
  | frame _ _ | ts _ | run _ | send _ _ _ => cases hp
  | songPosition | timeCode | songSelect | tuneRequest | clock | start | continueMsg | stop | activeSensing | sysReset
  | sysexStart | undefF4 | undefF5 | sysexEnd | undefF9 | undefFD =>
    obtain rfl := (List.cons.inj he).1
    rw [carryOver_loadStatus _ _ _ (by decide)]
    rfl

/-! ### Every instruction completes -/

/-- What an instruction of the walk makes of a state, for the constructors that always answer a next state. -/
theorem exec_total (i : Instr) (s : State) : ∃ t, exec i s = .next t := by
  cases i with
  | send c d e =>
    show ∃ t, execSend c d e s = .next t
    unfold execSend
    split <;> exact ⟨_, rfl⟩
  | _ => exact ⟨_, rfl⟩

/-- The two outcomes of SEND (R172, R176). -/
theorem exec_send_none (c d e : Byte) (s : State) (h : connLookup s = none) :
    exec (.send c d e) s = .next (sendResult false s) := by
  simp only [exec, execSend, h]

theorem exec_send_some (c d e : Byte) (s : State) {k : Nat} (h : connLookup s = some k) :
    exec (.send c d e) s = .next (sendResult true (submit k (serialize c d e s))) := by
  simp only [exec, execSend, h]

/-! ### The next move -/

@[simp] theorem runMove_instr (i : Instr) (s : State) : runMove (.instr i s) = exec i s := rfl

@[simp] theorem runMove_other (o : Host.Outcome State Fault Refusal) : runMove (.other o) = o := rfl

theorem step_quiet {s : State} (h : s.inputs = []) : step s = runMove (codecMove s) := by
  simp only [step, nextMove, h]

theorem step_host {s : State} {a : Input} {rest : List Input} (h : s.inputs = a :: rest) :
    step s = runMove (hostMove a { s with inputs := rest }) := by
  simp only [step, nextMove, h]

theorem codecMove_callback {s : State} (h : s.inCallback = true) :
    codecMove s = .other (.next (consumerReturns s)) := if_pos h

theorem codecMove_idle {s : State} (h : s.inCallback = false) (hb : s.decBusy = false) :
    codecMove s = .other (.next s) := by
  simp [codecMove, h, hb]

theorem codecMove_framing {s : State} (h : s.inCallback = false) (hb : s.decBusy = true) (hp : s.phase = .framing) :
    codecMove s = fetchFraming s := by
  simp [codecMove, h, hb, hp]

theorem codecMove_iterStart {s : State} (h : s.inCallback = false) (hb : s.decBusy = true) (hp : s.phase = .iterStart) :
    codecMove s = fetchIterStart s := by
  simp [codecMove, h, hb, hp]

theorem codecMove_lookAhead {s : State} (h : s.inCallback = false) (hb : s.decBusy = true) (hp : s.phase = .lookAhead) :
    codecMove s = fetchLookAhead s := by
  simp [codecMove, h, hb, hp]

theorem codecMove_walkEnded {s : State} (h : s.inCallback = false) (hb : s.decBusy = true) (hp : s.phase = .walkEnded) :
    codecMove s = .other (.next (endInvocation s)) := by
  simp [codecMove, h, hb, hp]

end Sys2Proof.Machine
end

