-- ==== Sys2Proof/Laws/Send.lean ====
section
/-! SUPPORT. The Encoder's primitives: the two answers of the connection lookup, the five bytes of the outbound frame, and that filling the buffer keeps its form. -/
namespace Sys2Proof.Machine

theorem connLookup_some {s : State} {c : Nat} (h : s.conn = some c) (hn : s.params.connNone ≠ some c) :
    connLookup s = some c := by
  simp [connLookup, h, hn]

theorem connLookup_none {s : State} (h : s.conn = none ∨ ∃ c, s.conn = some c ∧ s.params.connNone = some c) :
    connLookup s = none := by
  rcases h with h | ⟨c, h, hc⟩ <;> simp [connLookup, *]

/-- What stands at each offset of the outbound buffer after it has been filled (R173). -/
theorem read_serializedFrame (c d e : Byte) {m : Memory} (h : m.wf) (a : Nat) :
    (serializedFrame c d e m).read a =
      if a = 4 then e else if a = 3 then d else if a = 2 then c else if a = 1 then 0x80#8
      else if a = 0 then 0x80#8 else m.read a := by
  have h1 := Memory.write_wf 0 0x80#8 h
  have h2 := Memory.write_wf 1 0x80#8 h1
  have h3 := Memory.write_wf 2 c h2
  have h4 := Memory.write_wf 3 d h3
  simp only [serializedFrame, memWrite, commandSelector, Config.hdrDefault]
  rw [Memory.read_write _ _ _ h4, Memory.read_write _ _ _ h3, Memory.read_write _ _ _ h2, Memory.read_write _ _ _ h1,
    Memory.read_write _ _ _ h]

/-- The five bytes submitted (R56). -/
theorem bytes_serializedFrame (c d e : Byte) {m : Memory} (h : m.wf) :
    (serializedFrame c d e m).bytes 5 = [0x80#8, 0x80#8, c, d, e] := by
  simp [Memory.bytes, List.range_succ, read_serializedFrame c d e h]

/-- The form of the outbound buffer: canonical, and nothing listed past offset 4. -/
structure OutboundForm (m : Memory) : Prop where
  wf : m.wf
  bound : ∀ c ∈ m, c.1 < 5

theorem memWrite_form {m : Memory} (h : OutboundForm m) (a : Nat) (v : Byte) (ha : a < 5) :
    OutboundForm (memWrite m a v) where
  wf := Memory.write_wf _ _ h.wf
  bound := fun c hc => by
    rcases Memory.mem_write hc with rfl | hc
    · exact ha
    · exact h.bound c hc

theorem serializedFrame_form {m : Memory} (h : OutboundForm m) (c d e : Byte) :
    OutboundForm (serializedFrame c d e m) :=
  memWrite_form (memWrite_form (memWrite_form (memWrite_form (memWrite_form h _ _ (by omega)) _ _ (by omega)) _ _
    (by omega)) _ _ (by omega)) _ _ (by omega)

/-- Both buffers of the reset state are in canonical form. -/
theorem reset_buffers_wf : State.reset.buf.wf ∧ State.reset.tx.wf := ⟨Memory.wf_nil, Memory.wf_nil⟩

end Sys2Proof.Machine
end

