-- ==== Sys2Proof/Laws/Invariant.lean ====
section
/-! SUPPORT. Each shared operation keeps the invariant: one lemma per operation. -/
namespace Sys2Proof.Machine

/-- The pending host actions are no part of the invariant. -/
theorem inv_withInputs {s : State} (h : s.Inv) (l) : State.Inv { s with inputs := l } := { h with }

/-- Nothing is asked of a state in which no event is outstanding. -/
theorem inv_callbackCleared {s : State} (h : s.Inv) : State.Inv { s with inCallback := false } :=
  { h with
    idle := fun hb => ⟨(h.idle hb).1, (h.idle hb).2.1, rfl, (h.idle hb).2.2.2⟩
    framing := fun hp => ⟨(h.framing hp).1, (h.framing hp).2.1, (h.framing hp).2.2.1, rfl⟩
    holding := fun hc => by cases hc }

/-- Leaving the walk keeps the invariant. -/
theorem inv_endWalk {s : State} (h : s.Inv) (hb : s.decBusy = true) (hc : s.inCallback = false) : (endWalk s).Inv :=
  { h with
    idle := fun hn => by rw [endWalk_decBusy, hb] at hn; cases hn
    framing := fun hp => by cases hp
    walkChecked := fun hp => by rcases hp with hp | hp <;> cases hp
    walkCursor := fun hp => by rcases hp with hp | hp <;> cases hp
    walkHigh := fun hp => by rcases hp with hp | hp <;> cases hp
    walkSeen := fun hp => by rcases hp with hp | hp <;> cases hp
    walkStamp := fun hp => by rcases hp with hp | hp <;> cases hp
    look := fun hp => by cases hp
    holding := fun hh => by rw [endWalk_inCallback, hc] at hh; cases hh }

/-- An event delivered under a status byte is legal. -/
theorem eventsLegal_emit {s : State} (h : eventsLegal s) (hm : s.rs.msb = true) : eventsLegal (emit s) := by
  intro tg e ok he
  rw [emit_outputs, List.mem_append] at he
  rcases he with he | he
  · exact h _ _ _ he
  · simp only [List.mem_singleton, Output.event.injEq] at he
    rw [he.2.1]
    exact ⟨rfl, hm⟩

/-- A good state in the walk with no event outstanding: what steps 2 and 3 start from, and where the walk resumes. -/
structure Going (s : State) : Prop where
  inv : s.Inv
  busy : s.decBusy = true
  walk : inWalk s
  cur : s.i ≤ s.len
  fresh : s.phase = .iterStart → s.i < s.len
  quiet : s.inCallback = false

/-- A delivery keeps the invariant when what it found lets the walk resume. -/
theorem inv_emit {s : State} (h : Going s) (hz : s.rs ≠ 0#8) (a b : Byte) (hr : canResume s) :
    (emit { s with d1 := a, d2 := b }).Inv :=
  { h.inv with
    idle := fun hn => by have := h.busy; simp [this] at hn
    framing := fun hp => by
      have hp : s.phase = .framing := hp
      rcases h.walk with hw | hw <;> rw [hw] at hp <;> cases hp
    holding := fun _ => ⟨h.walk, h.inv.rs.resolve_left hz, hr⟩
    events := eventsLegal_emit (s := { s with d1 := a, d2 := b }) h.inv.events (h.inv.rs.resolve_left hz) }

/-- The end of an iteration keeps the invariant. -/
theorem inv_endIteration {s : State} (h : Going s) (n : Nat) (hn : s.i + n ≤ s.len + 1) : (endIteration n s).Inv :=
  { h.inv with
    cursorMax := by have := h.inv.lenMax; show s.i + n ≤ s.params.lenMax + 1; omega
    idle := fun hn => by have := h.busy; simp [this] at hn
    framing := fun hp => by cases hp
    walkChecked := fun hp => h.inv.walkChecked h.walk
    walkCursor := fun hp => ⟨by have := (h.inv.walkCursor h.walk).1; show 1 ≤ s.i + n; omega, hn⟩
    walkHigh := fun hp => h.inv.walkHigh h.walk
    walkSeen := fun hp => h.inv.walkSeen h.walk
    walkStamp := fun hp => h.inv.walkStamp h.walk
    look := fun hp => by cases hp
    holding := fun hh => by rw [endIteration_inCallback, h.quiet] at hh; cases hh }

/-- Where the walk resumes when the consumer returns. -/
theorem Going.ofHolding {s : State} (h : s.Inv) (hc : s.inCallback = true) : Going { s with inCallback := false } := by
  obtain ⟨hw, _, hr⟩ := h.holding hc
  have hb : s.decBusy = true := by
    cases hb : s.decBusy
    · rw [(h.idle hb).2.2.1] at hc
      cases hc
    · rfl
  have hfresh : s.phase = .iterStart → s.i < s.len := by
    intro hp
    unfold canResume at hr
    split at hr
    · omega
    · exact hr
    · exact hr hp
    · exact hr.elim
  refine ⟨inv_callbackCleared h, hb, hw, ?_, hfresh, rfl⟩
  rcases hw with hp | hp
  · exact Nat.le_of_lt (hfresh hp)
  · exact (h.look hp).2.2

/-- Where the walk resumes, said once for each arity: the four ways out of the call-out from a good state (R115, R158). -/
theorem consumerReturns_cases {s : State} (h : s.Inv) (hc : s.inCallback = true) :
    (arity s.rs = .two ∧ s.i + 1 < s.len ∧ consumerReturns s = endIteration 2 { s with inCallback := false }) ∨
    (arity s.rs = .one ∧ s.i < s.len ∧ consumerReturns s = endIteration 1 { s with inCallback := false }) ∨
    (arity s.rs = .zero ∧ s.phase = .iterStart ∧ s.i < s.len ∧ consumerReturns s = endWalk { s with inCallback := false }) ∨
    (arity s.rs = .zero ∧ s.phase = .lookAhead ∧ s.i ≤ s.len ∧
      consumerReturns s = endIteration 0 { s with inCallback := false }) := by
  obtain ⟨hw, _, hr⟩ := h.holding hc
  unfold canResume at hr
  cases ha : arity s.rs with
  | two => exact .inl ⟨rfl, by simpa [ha] using hr, consumerReturns_two s ha⟩
  | one => exact .inr (.inl ⟨rfl, by simpa [ha] using hr, consumerReturns_one s ha⟩)
  | zero =>
    rcases hw with hp | hp
    · exact .inr (.inr (.inl ⟨rfl, hp, by simpa [ha, hp] using hr, consumerReturns_zero_stalled s ha hp⟩))
    · exact .inr (.inr (.inr ⟨rfl, hp, (h.look hp).2.2, consumerReturns_zero_moved s ha (by rw [hp]; simp)⟩))
  | other => simp [ha] at hr

/-- The return of the consumer keeps the invariant. -/
theorem inv_consumerReturns {s : State} (h : s.Inv) (hc : s.inCallback = true) : (consumerReturns s).Inv := by
  have hg := Going.ofHolding h hc
  rcases consumerReturns_cases h hc with ⟨_, hl, e⟩ | ⟨_, hl, e⟩ | ⟨_, _, _, e⟩ | ⟨_, _, hl, e⟩ <;> rw [e]
  · exact inv_endIteration hg 2 (by show s.i + 2 ≤ s.len + 1; omega)
  · exact inv_endIteration hg 1 (by show s.i + 1 ≤ s.len + 1; omega)
  · exact inv_endWalk hg.inv hg.busy rfl
  · exact inv_endIteration hg 0 (by show s.i + 0 ≤ s.len + 1; omega)

/-- Steps 2 and 3 keep the invariant. -/
theorem inv_carryOver {s : State} (h : Going s) (b : Byte) : (carryOver b s).Inv := by
  have hc := h.cur
  rcases carryOver_cases b s with ⟨e, _⟩ | ⟨hz, ha, hl, e⟩ | ⟨hz, ha, hl, e⟩ | ⟨hz, ha, e⟩ | ⟨hz, ha, e⟩ <;> rw [e]
  · exact inv_endWalk h.inv h.busy h.quiet
  · exact inv_emit h hz _ _ (by simpa [canResume, ha] using hl)
  · exact inv_emit h hz b s.d2 (by simpa [canResume, ha] using hl)
  · exact inv_emit h hz s.d1 s.d2 (by simpa [canResume, ha] using h.fresh)
  · exact inv_endIteration h 1 (by omega)

/-- After the status tracker has taken a byte the walk is still under way. -/
theorem Going.ofStatus {s : State} (h : s.Inv) (hb : s.decBusy = true) (hp : s.phase = .lookAhead)
    (hc : s.inCallback = false) (hl : s.i < s.len) {b : Byte} (hm : b.msb = true) :
    Going (loadStatus b s) where
  inv := { h with
    cursorMax := by have := h.lenMax; show s.i + 1 ≤ _; exact (by omega : s.i + 1 ≤ s.params.lenMax + 1)
    rs := .inr hm
    idle := fun hn => by simp [hb] at hn
    framing := fun hp => by cases hp
    walkChecked := fun _ => h.walkChecked (.inr hp)
    walkCursor := fun _ => by have := h.walkCursor (.inr hp); show 1 ≤ s.i + 1 ∧ s.i + 1 ≤ s.len + 1; omega
    walkHigh := fun _ => h.walkHigh (.inr hp)
    walkSeen := fun _ hs => by have := (h.look hp).1; rw [loadStatus_tsLowSeen, this] at hs; cases hs
    walkStamp := fun _ => h.walkStamp (.inr hp)
    look := fun _ => by have := h.look hp; exact ⟨this.1, (by omega : 2 ≤ s.i + 1), (by omega : s.i + 1 ≤ s.len)⟩
    holding := fun hh => by rw [loadStatus_inCallback, hc] at hh; cases hh }
  busy := hb
  walk := .inr rfl
  cur := (by omega : s.i + 1 ≤ s.len)
  fresh := fun hp => by cases hp
  quiet := hc

/-- The accumulator that a framing byte seeds has its low seven bits clear. -/
theorem framing_low_seven : ∀ th : BitVec 6, (th.setWidth 16 <<< 7 : BitVec 16).extractLsb' 0 7 = 0#7 := by decide

/-- The framing byte keeps the invariant. -/
theorem inv_framingByte {s : State} (h : s.Inv) (hp : s.phase = .framing) (hb : s.decBusy = true) (th) : (framingByte th s).Inv :=
  { h with
    cursorMax := by show 1 ≤ _ + 1; omega
    idle := fun hn => by simp [hb] at hn
    framing := fun hp => by cases hp
    walkChecked := fun _ => ⟨(h.framing hp).1, (h.framing hp).2.1⟩
    walkCursor := fun _ => by show 1 ≤ 1 ∧ 1 ≤ s.len + 1; omega
    walkHigh := fun _ => framing_low_seven th
    walkSeen := fun _ _ => (h.framing hp).2.2.1
    walkStamp := fun _ hs => by cases hs
    look := fun hp => by cases hp
    holding := fun hh => by rw [framingByte_inCallback, (h.framing hp).2.2.2] at hh; cases hh }

/-- A timestamp byte keeps the invariant. -/
theorem inv_timestampByte {s : State} (h : s.Inv) (hp : s.phase = .iterStart) (hb : s.decBusy = true) (hc : s.inCallback = false) (hl : s.i < s.len) (low) : (timestampByte low s).Inv :=
  { h with
    cursorMax := by have := h.lenMax; exact (by omega : s.i + 1 ≤ s.params.lenMax + 1)
    idle := fun hn => by simp [hb] at hn
    framing := fun hp => by cases hp
    walkChecked := fun _ => h.walkChecked (.inl hp)
    walkCursor := fun _ => by show 1 ≤ s.i + 1 ∧ s.i + 1 ≤ s.len + 1; omega
    walkHigh := fun _ => by
      have hh := h.walkHigh (.inl hp)
      show (nextTsHigh s low).extractLsb' 0 7 = 0#7
      unfold nextTsHigh
      split
      · have hh := congrArg BitVec.toNat hh
        apply BitVec.eq_of_toNat_eq
        simp [BitVec.extractLsb'_toNat, Config.lowCycle] at hh ⊢
        omega
      · exact hh
    walkSeen := fun _ hs => by cases hs
    walkStamp := fun _ _ => rfl
    look := fun _ => ⟨rfl, by have := h.walkCursor (.inl hp); exact (by omega : 2 ≤ s.i + 1), hl⟩
    holding := fun hh => by rw [timestampByte_inCallback, hc] at hh; cases hh }

/-- The end of an invocation keeps the invariant. -/
theorem inv_endInvocation {s : State} (h : s.Inv) (hc : s.inCallback = false) : (endInvocation s).Inv :=
  { h with
    bufWf := Memory.wf_nil
    bufInFrame := by simp
    lenMax := Nat.zero_le _
    rs := .inl rfl
    idle := fun _ => ⟨rfl, rfl, hc, rfl⟩
    framing := fun hp => by cases hp
    walkChecked := fun hp => by rcases hp with hp | hp <;> cases hp
    walkCursor := fun hp => by rcases hp with hp | hp <;> cases hp
    walkHigh := fun hp => by rcases hp with hp | hp <;> cases hp
    walkSeen := fun hp => by rcases hp with hp | hp <;> cases hp
    walkStamp := fun hp => by rcases hp with hp | hp <;> cases hp
    look := fun hp => by cases hp
    holding := fun hh => by rw [endInvocation_inCallback, hc] at hh; cases hh
    events := fun tg e ok he => h.events tg e ok (by simpa using he) }

theorem inv_serialize {s : State} (h : s.Inv) (c d e) : (serialize c d e s).Inv :=
  { h with
    txWf := (serializedFrame_form ⟨h.txWf, h.txInFrame⟩ c d e).wf
    txInFrame := (serializedFrame_form ⟨h.txWf, h.txInFrame⟩ c d e).bound }

theorem inv_sendResult {s : State} (h : s.Inv) (ok) : (sendResult ok s).Inv :=
  { h with events := fun tg e ok he => h.events tg e ok (by simpa using he) }

theorem inv_submit {s : State} (h : s.Inv) (c) : (submit c s).Inv :=
  { h with events := fun tg e ok he => h.events tg e ok (by simpa using he) }

/-- At the start of an iteration inside the frame, and in the look-ahead. -/
theorem Going.ofIterStart {s : State} (h : s.Inv) (hb : s.decBusy = true) (hp : s.phase = .iterStart)
    (hc : s.inCallback = false) (hl : s.i < s.len) : Going s :=
  ⟨h, hb, .inl hp, Nat.le_of_lt hl, fun _ => hl, hc⟩

theorem Going.ofLookAhead {s : State} (h : s.Inv) (hb : s.decBusy = true) (hp : s.phase = .lookAhead)
    (hc : s.inCallback = false) : Going s :=
  ⟨h, hb, .inr hp, (h.look hp).2.2, fun hi => (by rw [hp] at hi; cases hi), hc⟩

end Sys2Proof.Machine
end

