-- ==== Sys2Proof/Laws/Moves.lean ====
section
/-! SUPPORT. The inversion of the codec's move, said once (from a good state and from any state), and how runs of steps compose. -/
namespace Sys2Proof.Machine

/-- What steps 2 and 3 leave alone, field by field. -/
theorem carryOver_keeps {s : State} {b} : (carryOver b s).rs = s.rs ∧ (carryOver b s).params = s.params ∧ (carryOver b s).consReg = s.consReg ∧ (carryOver b s).consTarget = s.consTarget ∧ (carryOver b s).conn = s.conn ∧ (carryOver b s).decBusy = s.decBusy := by
  rw [carryOver_keepsWalk b s]; simp

/-- Everything the codec's own move can do from a good state, with the guard of each case. -/
theorem codecMove_cases {s : State} (h : s.Inv) :
   (s.inCallback = true ∧ runMove (codecMove s) = .next (consumerReturns s)) ∨
   (s.inCallback = false ∧ s.decBusy = false ∧ runMove (codecMove s) = .next s) ∨
   (s.inCallback = false ∧ s.decBusy = true ∧
     ((s.phase = .framing ∧ 3 ≤ s.len ∧ runMove (codecMove s) = .next (framingByte ((s.buf.read 0).extractLsb' 0 6) s)) ∨
      (s.phase = .iterStart ∧ s.i < s.len ∧ (s.buf.read s.i).msb = true ∧ runMove (codecMove s) = .next (timestampByte ((s.buf.read s.i).extractLsb' 0 7) s)) ∨
      (s.phase = .iterStart ∧ s.i < s.len ∧ (s.buf.read s.i).msb = false ∧ runMove (codecMove s) = .next (carryOver (s.buf.read s.i) s)) ∨
      (s.phase = .lookAhead ∧ s.i < s.len ∧ (s.buf.read s.i).msb = true ∧ runMove (codecMove s) = .next (carryOver (s.buf.read (s.i+1)) (loadStatus (s.buf.read s.i) s))) ∨
      (s.phase = .lookAhead ∧ s.i < s.len ∧ (s.buf.read s.i).msb = false ∧ runMove (codecMove s) = .next (carryOver (s.buf.read s.i) s)) ∨
      (s.phase = .lookAhead ∧ s.len ≤ s.i ∧ runMove (codecMove s) = .next (carryOver Memory.unlisted s)) ∨
      ((s.phase = .walkEnded ∨ s.phase = .iterStart ∧ s.len ≤ s.i) ∧ runMove (codecMove s) = .next (endInvocation s)))) := by
  cases hc : s.inCallback with
  | true => exact .inl ⟨rfl, by rw [codecMove_callback hc]; rfl⟩
  | false =>
    cases hb : s.decBusy with
    | false => exact .inr (.inl ⟨rfl, rfl, by rw [codecMove_idle hc hb]; rfl⟩)
    | true =>
      refine .inr (.inr ⟨rfl, rfl, ?_⟩)
      cases hp : s.phase with
      | framing =>
        have := (h.framing hp).1
        exact .inl ⟨rfl, this, by rw [codecMove_framing hc hb hp, fetchFraming, memRead_of_lt (by omega)]; rfl⟩
      | iterStart =>
        rw [codecMove_iterStart hc hb hp, fetchIterStart]
        rcases Nat.lt_or_ge s.i s.len with hl | hl
        · rw [memRead_of_lt hl]
          cases hm : (s.buf.read s.i).msb with
          | true => exact .inr (.inl ⟨rfl, hl, rfl, by simp [decodeIterStart, hm]; rfl⟩)
          | false => exact .inr (.inr (.inl ⟨rfl, hl, rfl, by simp [decodeIterStart, hm]; rfl⟩))
        · rw [memRead_of_ge hl]
          exact .inr (.inr (.inr (.inr (.inr (.inr ⟨.inr ⟨rfl, hl⟩, rfl⟩)))))
      | lookAhead =>
        rw [codecMove_lookAhead hc hb hp, fetchLookAhead]
        rcases Nat.lt_or_ge s.i s.len with hl | hl
        · rw [memRead_of_lt hl]
          cases hm : (s.buf.read s.i).msb with
          | true =>
            refine .inr (.inr (.inr (.inl ⟨rfl, hl, rfl, ?_⟩)))
            have : ∀ b : Byte, b.msb = true → decodeStatus b = some (decodeLookAhead b) := by decide
            exact exec_decodeStatus (this _ hm) s
          | false =>
            refine .inr (.inr (.inr (.inr (.inl ⟨rfl, hl, rfl, ?_⟩))))
            simp [decodeLookAhead, decodeStatus_low _ hm]; rfl
        · rw [memRead_of_ge hl]
          exact .inr (.inr (.inr (.inr (.inr (.inl ⟨rfl, hl, rfl⟩)))))
      | walkEnded => exact .inr (.inr (.inr (.inr (.inr (.inr ⟨.inl rfl, by rw [codecMove_walkEnded hc hb hp]; rfl⟩)))))

/-- What the codec's own move can do from any state at all. -/
theorem codecMove_inversion {s t : State} (e : runMove (codecMove s) = .next t) :
   t = consumerReturns s ∨ t = s ∨ (∃ th, t = framingByte th s) ∨ (∃ l, t = timestampByte l s) ∨ (∃ b, t = carryOver b s) ∨
   (s.phase = .lookAhead ∧ s.i < s.len ∧ (s.buf.read s.i).msb = true ∧ ∃ b, t = carryOver b (loadStatus (s.buf.read s.i) s)) ∨ (s.decBusy = true ∧ t = endInvocation s) := by
  cases hc : s.inCallback with
  | true => rw [codecMove_callback hc] at e; cases e; exact .inl rfl
  | false =>
    cases hb : s.decBusy with
    | false => rw [codecMove_idle hc hb] at e; cases e; exact .inr (.inl rfl)
    | true =>
      cases hp : s.phase with
      | framing =>
        rw [codecMove_framing hc hb hp, fetchFraming] at e
        rcases Nat.lt_or_ge 0 s.len with hl | hl
        · rw [memRead_of_lt hl] at e; cases e; exact .inr (.inr (.inl ⟨_, rfl⟩))
        · rw [memRead_of_ge hl] at e; cases e
      | iterStart =>
        rw [codecMove_iterStart hc hb hp, fetchIterStart] at e
        rcases Nat.lt_or_ge s.i s.len with hl | hl
        · rw [memRead_of_lt hl] at e
          cases hm : (s.buf.read s.i).msb with
          | true => simp [decodeIterStart, hm] at e; cases e; exact .inr (.inr (.inr (.inl ⟨_, rfl⟩)))
          | false => simp [decodeIterStart, hm] at e; cases e; exact .inr (.inr (.inr (.inr (.inl ⟨_, rfl⟩))))
        · rw [memRead_of_ge hl] at e; cases e
          exact .inr (.inr (.inr (.inr (.inr (.inr ⟨rfl, rfl⟩)))))
      | lookAhead =>
        rw [codecMove_lookAhead hc hb hp, fetchLookAhead] at e
        rcases Nat.lt_or_ge s.i s.len with hl | hl
        · rw [memRead_of_lt hl] at e
          cases hm : (s.buf.read s.i).msb with
          | true =>
            have : ∀ b : Byte, b.msb = true → decodeStatus b = some (decodeLookAhead b) := by decide
            have := exec_decodeStatus (this _ hm) s
            simp only [runMove_instr] at e
            rw [this] at e; cases e
            exact .inr (.inr (.inr (.inr (.inr (.inl ⟨rfl, hl, rfl, _, rfl⟩)))))
          | false =>
            simp [decodeLookAhead, decodeStatus_low _ hm] at e; cases e
            exact .inr (.inr (.inr (.inr (.inl ⟨_, rfl⟩))))
        · rw [memRead_of_ge hl] at e; cases e
          exact .inr (.inr (.inr (.inr (.inl ⟨_, rfl⟩))))
      | walkEnded =>
        rw [codecMove_walkEnded hc hb hp] at e; cases e
        exact .inr (.inr (.inr (.inr (.inr (.inr ⟨rfl, rfl⟩)))))

/-! ### Runs -/

/-- A run that begins with one step. -/
theorem run_succ {k : Nat} {s u t : State} (h : step s = .next u) (hr : Host.Core.run core k u = .next t) :
    Host.Core.run core (k + 1) s = .next t := by
  have h : core.step s = .next u := h
  simp only [Host.Core.run, h]
  exact hr

/-- The first step of a run. -/
theorem run_succ_inv {k : Nat} {s t : State} (h : Host.Core.run core (k + 1) s = .next t) :
    ∃ u, step s = .next u ∧ Host.Core.run core k u = .next t := by
  simp only [Host.Core.run] at h
  cases hs : core.step s with
  | next u =>
    rw [hs] at h
    exact ⟨u, hs, h⟩
  | fault r =>
    rw [hs] at h
    cases h
  | refused r =>
    rw [hs] at h
    cases h

/-- Two runs, one after the other. -/
theorem run_trans {j k : Nat} {s u t : State} (h : Host.Core.run core j s = .next u)
    (hr : Host.Core.run core k u = .next t) : Host.Core.run core (j + k) s = .next t := by
  induction j generalizing s with
  | zero =>
    cases h
    rwa [Nat.zero_add]
  | succ j ih =>
    obtain ⟨v, hv, hs⟩ := run_succ_inv h
    rw [Nat.succ_add]
    exact run_succ hv (ih hs)

end Sys2Proof.Machine
end

