-- ==== Sys2Proof/Laws/PerInstr.lean ====
section
/-! SUPPORT. The per-instruction family TableMatch: an instruction's encoded word matches its row of spec/opcode_table.json, has the row's width, and is read back from the row's word. -/
namespace Sys2Proof

/-- The framing byte's row names the form with bits 7 and 6 at 10; the Decoder takes the other three too (R84, SC10). -/
abbrev standsInRow (i : Instr) : Prop :=
  match i with
  | .frame mark _ => mark = 0b10#2
  | _             => True

/-- The two rows whose bit patterns are shared with status rows and told apart by position (R87; log 1). -/
abbrev sharesPattern (i : Instr) : Prop :=
  match i with
  | .frame _ _ | .ts _ => True
  | _                  => False

/-- What the table says of one instruction's word. -/
def Laws.TableMatch.Statement (i : Instr) : Prop :=
  WellFormed i → standsInRow i →
    encodedWord i &&& (tableRow i).mask = (tableRow i).pattern ∧
    (encode i).length * 8 = (tableRow i).width ∧
    (¬ sharesPattern i → decodeTableWord (tableRow i).width (encodedWord i) = some i)

/-- The high 16 of 40 bits, as the SEND row's mask takes them. -/
theorem and_high_sixteen (h r : Nat) (hh : h < 2 ^ 16) (hr : r < 2 ^ 24) :
    (h * 2 ^ 24 + r) &&& 0xFFFF000000 = h * 2 ^ 24 := by
  have hm : (0xFFFF000000 : Nat) = (2 ^ 16 - 1) <<< 24 := by decide
  have hw : h * 2 ^ 24 + r = (h <<< 24) ||| r := by
    rw [← Nat.shiftLeft_add_eq_or_of_lt hr, Nat.shiftLeft_eq]
  rw [hm, hw, ← Nat.shiftLeft_eq]
  apply Nat.eq_of_testBit_eq
  intro j
  simp only [Nat.testBit_and, Nat.testBit_or, Nat.testBit_shiftLeft, Nat.testBit_two_pow_sub_one]
  rcases Nat.lt_or_ge j 24 with hj | hj
  · simp [show ¬ j ≥ 24 by omega]
  · have hrj : r.testBit j = false := Nat.testBit_lt_two_pow (Nat.lt_of_lt_of_le hr (Nat.pow_le_pow_right (by omega) hj))
    rcases Nat.lt_or_ge (j - 24) 16 with hk | hk
    · simp [hj, hrj, hk]
    · have : h.testBit (j - 24) = false :=
        Nat.testBit_lt_two_pow (Nat.lt_of_lt_of_le hh (Nat.pow_le_pow_right (by omega) hk))
      simp [hj, hrj, this]

theorem Laws.TableMatch.noteOff (ch : Channel) : Laws.TableMatch.Statement (.noteOff ch) := by
  revert ch
  unfold Laws.TableMatch.Statement
  decide

theorem Laws.TableMatch.noteOn (ch : Channel) : Laws.TableMatch.Statement (.noteOn ch) := by
  revert ch
  unfold Laws.TableMatch.Statement
  decide

theorem Laws.TableMatch.polyPressure (ch : Channel) : Laws.TableMatch.Statement (.polyPressure ch) := by
  revert ch
  unfold Laws.TableMatch.Statement
  decide

theorem Laws.TableMatch.controlChange (ch : Channel) : Laws.TableMatch.Statement (.controlChange ch) := by
  revert ch
  unfold Laws.TableMatch.Statement
  decide

theorem Laws.TableMatch.pitchBend (ch : Channel) : Laws.TableMatch.Statement (.pitchBend ch) := by
  revert ch
  unfold Laws.TableMatch.Statement
  decide

theorem Laws.TableMatch.songPosition : Laws.TableMatch.Statement .songPosition := by
  unfold Laws.TableMatch.Statement
  decide

theorem Laws.TableMatch.programChange (ch : Channel) : Laws.TableMatch.Statement (.programChange ch) := by
  revert ch
  unfold Laws.TableMatch.Statement
  decide

theorem Laws.TableMatch.channelPressure (ch : Channel) : Laws.TableMatch.Statement (.channelPressure ch) := by
  revert ch
  unfold Laws.TableMatch.Statement
  decide

theorem Laws.TableMatch.timeCode : Laws.TableMatch.Statement .timeCode := by
  unfold Laws.TableMatch.Statement
  decide

theorem Laws.TableMatch.songSelect : Laws.TableMatch.Statement .songSelect := by
  unfold Laws.TableMatch.Statement
  decide

theorem Laws.TableMatch.tuneRequest : Laws.TableMatch.Statement .tuneRequest := by
  unfold Laws.TableMatch.Statement
  decide

theorem Laws.TableMatch.clock : Laws.TableMatch.Statement .clock := by
  unfold Laws.TableMatch.Statement
  decide

theorem Laws.TableMatch.start : Laws.TableMatch.Statement .start := by
  unfold Laws.TableMatch.Statement
  decide

theorem Laws.TableMatch.continueMsg : Laws.TableMatch.Statement .continueMsg := by
  unfold Laws.TableMatch.Statement
  decide

theorem Laws.TableMatch.stop : Laws.TableMatch.Statement .stop := by
  unfold Laws.TableMatch.Statement
  decide

theorem Laws.TableMatch.activeSensing : Laws.TableMatch.Statement .activeSensing := by
  unfold Laws.TableMatch.Statement
  decide

theorem Laws.TableMatch.sysReset : Laws.TableMatch.Statement .sysReset := by
  unfold Laws.TableMatch.Statement
  decide

theorem Laws.TableMatch.sysexStart : Laws.TableMatch.Statement .sysexStart := by
  unfold Laws.TableMatch.Statement
  decide

theorem Laws.TableMatch.undefF4 : Laws.TableMatch.Statement .undefF4 := by
  unfold Laws.TableMatch.Statement
  decide

theorem Laws.TableMatch.undefF5 : Laws.TableMatch.Statement .undefF5 := by
  unfold Laws.TableMatch.Statement
  decide

theorem Laws.TableMatch.sysexEnd : Laws.TableMatch.Statement .sysexEnd := by
  unfold Laws.TableMatch.Statement
  decide

theorem Laws.TableMatch.undefF9 : Laws.TableMatch.Statement .undefF9 := by
  unfold Laws.TableMatch.Statement
  decide

theorem Laws.TableMatch.undefFD : Laws.TableMatch.Statement .undefFD := by
  unfold Laws.TableMatch.Statement
  decide

theorem Laws.TableMatch.frame (mark : BitVec 2) (th : StampHigh) : Laws.TableMatch.Statement (.frame mark th) := by
  revert mark th
  unfold Laws.TableMatch.Statement
  decide

theorem Laws.TableMatch.ts (tl : StampLow) : Laws.TableMatch.Statement (.ts tl) := by
  revert tl
  unfold Laws.TableMatch.Statement
  decide

theorem Laws.TableMatch.run (d : Byte) : Laws.TableMatch.Statement (.run d) := by
  revert d
  unfold Laws.TableMatch.Statement
  decide

theorem Laws.TableMatch.send (command d1 d2 : Byte) : Laws.TableMatch.Statement (.send command d1 d2) := by
  intro _ _
  have hc := command.isLt
  have h1 := d1.isLt
  have h2 := d2.isLt
  have hw : encodedWord (.send command d1 d2)
      = 0x8080 * 2 ^ 24 + ((command.toNat * 256 + d1.toNat) * 256 + d2.toNat) := by
    simp only [encodedWord, encode, List.foldl_cons, List.foldl_nil, Config.hdrDefault]
    show (((((0 * 256 + 128) * 256 + 128) * 256 + _) * 256 + _) * 256 + _ : Nat) = _
    omega
  refine ⟨?_, rfl, fun _ => ?_⟩
  · rw [hw]
    exact and_high_sixteen 0x8080 _ (by omega) (by omega)
  · rw [hw]
    generalize hn : 0x8080 * 2 ^ 24 + ((command.toNat * 256 + d1.toNat) * 256 + d2.toNat) = n
    have e0 : BitVec.ofNat 8 (n / 2 ^ 32) = Config.hdrDefault := by
      apply BitVec.eq_of_toNat_eq
      show n / 2 ^ 32 % 2 ^ 8 = 128
      omega
    have e1 : BitVec.ofNat 8 (n / 2 ^ 24) = Config.hdrDefault := by
      apply BitVec.eq_of_toNat_eq
      show n / 2 ^ 24 % 2 ^ 8 = 128
      omega
    have e2 : BitVec.ofNat 8 (n / 2 ^ 16) = command := by
      apply BitVec.eq_of_toNat_eq
      rw [BitVec.toNat_ofNat]
      omega
    have e3 : BitVec.ofNat 8 (n / 2 ^ 8) = d1 := by
      apply BitVec.eq_of_toNat_eq
      rw [BitVec.toNat_ofNat]
      omega
    have e4 : BitVec.ofNat 8 n = d2 := by
      apply BitVec.eq_of_toNat_eq
      rw [BitVec.toNat_ofNat]
      omega
    simp only [decodeTableWord, tableRow, tableBytes, if_true, e0, e1, e2, e3, e4, decode, decodeOutbound, and_self]

end Sys2Proof
end

