-- ==== Sys2Proof/Tests/Slice0.lean ====
section
/-! SUPPORT. The model's own tests: the WellFormed smoke test, the decoding of a written-out word for every constructor, one or two steps per instruction (expected results from 95_test_vectors.md), the host's two functions, and a witness for every statement that has hypotheses. -/
namespace Sys2Proof.Tests

open Sys2Proof Sys2Proof.Machine Sys2Proof.Expect

/-! ### Helpers -/

/-- Parameters chosen for the tests only. -/
abbrev params : Params where
  lenMax   := 16
  targetW  := 8
  connW    := 16
  connNone := some 0xFFFF
  chanW    := 8
  chanOut  := 7

/-- The idle codec with consumer 5 registered, as every vector begins. -/
abbrev idle : State := { State.reset with params := params, consReg := true, consTarget := 5 }

/-- The idle codec with one host action pending. -/
abbrev asked (a : Input) : State := { idle with inputs := [a] }

/-- A walk over a frame after a timestamp byte of low 0, at cursor `i`. -/
abbrev walk (bs : List Byte) (i : Nat) (p : Phase) (rs : Byte) : State :=
  { idle with
    buf := Memory.ofBytes bs, len := bs.length, i := i, phase := p, rs := rs, decBusy := true, tsLowSeen := true }

/-- One field of the next state, if there is one. -/
abbrev got {α : Type} (f : State → α) (o : Host.Outcome State Fault Refusal) : Option α :=
  match o with
  | .next t => some (f t)
  | _       => none

/-- Event port after an instruction in the look-ahead position of a frame, and the cursor once the consumer, if it was called, has
returned. -/
abbrev afterStatus (i : Instr) (bs : List Byte) : Option (List Output × Nat) :=
  got (fun t => (t.outputs, if t.inCallback then (consumerReturns t).i else t.i)) (exec i (walk bs 2 .lookAhead 0#8))

/-- One event as a vector writes it. -/
abbrev ev (ts : Stamp) (c d e : Byte) (ok : Bool) : List Output := [.event 5 ⟨0x80#8, ts, c, d, e⟩ ok]

theorem idle_inv : idle.Inv := by
  constructor <;> simp [State.reset, Params.wf, inWalk, rsLegal, eventsLegal, Memory.wf]

theorem walk_inv {bs : List Byte} {i : Nat} {p : Phase} {rs : Byte} (hl : 3 ≤ bs.length ∧ bs.length ≤ 16)
    (hp : p = .iterStart ∨ p = .lookAhead ∨ p = .walkEnded) (hi : 2 ≤ i ∧ i ≤ bs.length)
    (hr : rs = 0x00#8 ∨ rs.msb = true) : (walk bs i p rs).Inv :=
  { idle_inv with
    bufWf := Memory.ofBytes_wf bs
    bufInFrame := fun _ hc => Memory.ofBytes_bound hc
    lenMax := hl.2
    cursorMax := by
      show i ≤ 16 + 1
      omega
    rs := hr
    idle := fun h => by cases h
    framing := fun h => by rcases hp with rfl | rfl | rfl <;> cases h
    walkChecked := fun _ => ⟨hl.1, rfl⟩
    walkCursor := fun _ => by
      show 1 ≤ i ∧ i ≤ bs.length + 1
      omega
    walkHigh := fun _ => rfl
    walkSeen := fun _ h => by cases h
    walkStamp := fun _ _ => rfl
    look := fun _ => ⟨rfl, hi.1, hi.2⟩
    holding := fun h => by cases h }

/-! ### WellFormed -/

theorem test_wf_refuses_run_of_status_byte : ¬ WellFormed (.run 0x80#8) := by decide
theorem test_wf_refuses_run_of_last_byte : ¬ WellFormed (.run 0xFF#8) := by decide
theorem test_wf_accepts_run_of_data_byte : WellFormed (.run 0x7F#8) := by decide

/-! ### Decoding: a word written out from R71 to R73, R79, R80 for every constructor -/

theorem test_decode_noteOff : decode .lookAhead [0b10000011#8] = .ok (.noteOff 3#4, []) := rfl
theorem test_decode_noteOn : decode .lookAhead [0b10010000#8] = .ok (.noteOn 0#4, []) := rfl
theorem test_decode_polyPressure : decode .lookAhead [0b10101111#8] = .ok (.polyPressure 15#4, []) := rfl
theorem test_decode_controlChange : decode .lookAhead [0b10110110#8] = .ok (.controlChange 6#4, []) := rfl
theorem test_decode_programChange : decode .lookAhead [0b11000101#8] = .ok (.programChange 5#4, []) := rfl
theorem test_decode_channelPressure : decode .lookAhead [0b11011010#8] = .ok (.channelPressure 10#4, []) := rfl
theorem test_decode_pitchBend : decode .lookAhead [0b11100001#8] = .ok (.pitchBend 1#4, []) := rfl
theorem test_decode_sysexStart : decode .lookAhead [0b11110000#8] = .ok (.sysexStart, []) := rfl
theorem test_decode_timeCode : decode .lookAhead [0b11110001#8] = .ok (.timeCode, []) := rfl
theorem test_decode_songPosition : decode .lookAhead [0b11110010#8] = .ok (.songPosition, []) := rfl
theorem test_decode_songSelect : decode .lookAhead [0b11110011#8] = .ok (.songSelect, []) := rfl
theorem test_decode_undefF4 : decode .lookAhead [0b11110100#8] = .ok (.undefF4, []) := rfl
theorem test_decode_undefF5 : decode .lookAhead [0b11110101#8] = .ok (.undefF5, []) := rfl
theorem test_decode_tuneRequest : decode .lookAhead [0b11110110#8] = .ok (.tuneRequest, []) := rfl
theorem test_decode_sysexEnd : decode .lookAhead [0b11110111#8] = .ok (.sysexEnd, []) := rfl
theorem test_decode_clock : decode .lookAhead [0b11111000#8] = .ok (.clock, []) := rfl
theorem test_decode_undefF9 : decode .lookAhead [0b11111001#8] = .ok (.undefF9, []) := rfl
theorem test_decode_start : decode .lookAhead [0b11111010#8] = .ok (.start, []) := rfl
theorem test_decode_continueMsg : decode .lookAhead [0b11111011#8] = .ok (.continueMsg, []) := rfl
theorem test_decode_stop : decode .lookAhead [0b11111100#8] = .ok (.stop, []) := rfl
theorem test_decode_undefFD : decode .lookAhead [0b11111101#8] = .ok (.undefFD, []) := rfl
theorem test_decode_activeSensing : decode .lookAhead [0b11111110#8] = .ok (.activeSensing, []) := rfl
theorem test_decode_sysReset : decode .lookAhead [0b11111111#8] = .ok (.sysReset, []) := rfl
theorem test_decode_frame : decode .framing [0b10000101#8] = .ok (.frame 0b10#2 5#6, []) := rfl
theorem test_decode_frame_unchecked : decode .framing [0b01111111#8] = .ok (.frame 0b01#2 63#6, []) := rfl
theorem test_decode_ts : decode .iterStart [0b11111010#8] = .ok (.ts 122#7, []) := rfl
theorem test_decode_run : decode .lookAhead [0b00111100#8, 0x64#8] = .ok (.run 0x3C#8, [0x64#8]) := rfl
theorem test_decode_send :
    decode .outbound [0x80#8, 0x80#8, 0x90#8, 0x3C#8, 0x64#8] = .ok (.send 0x90#8 0x3C#8 0x64#8, []) := rfl
theorem test_decode_rejects_header :
    decode .outbound [0x80#8, 0x81#8, 0x90#8, 0x3C#8, 0x64#8] = .error .badOutboundHeader := rfl
theorem test_decode_rejects_short_frame :
    decode .outbound [0x80#8, 0x80#8, 0x90#8, 0x3C#8] = .error .shortOutbound := rfl
theorem test_decode_rejects_nothing : decode .iterStart [] = .error .noByte := rfl

/-! ### The host's two functions -/

theorem test_table_word_status : decodeTableWord 8 0x91 = some (.noteOn 1#4) := by decide
theorem test_table_word_run : decodeTableWord 8 0x00 = some (.run 0x00#8) := by decide
theorem test_table_word_send : decodeTableWord 40 0x8080903C64 = some (.send 0x90#8 0x3C#8 0x64#8) := by decide
theorem test_table_word_no_width : decodeTableWord 16 0x9000 = none := by decide

/-- From reset with nothing but the word placed, the next step runs the status message on operand bytes of zeros, up to the
delivery of its event. -/
theorem test_fetch_word_status :
    got (fun t => (t.rs, t.i, t.outputs)) (step (State.reset.withFetchWord 8 0x90)) =
      some (0x90#8, 3, [.event 0 ⟨0x80#8, 0#16, 0x90#8, 0#8, 0#8⟩ true]) := by decide

/-- Running status is zero at reset, so a data byte placed there ends the walk (R113). -/
theorem test_fetch_word_run :
    got (fun t => (t.phase, t.outputs)) (step (State.reset.withFetchWord 8 0x3C)) = some (.walkEnded, []) := by decide

/-- No connection at reset: the SEND answers 0 (R172). -/
theorem test_fetch_word_send :
    got State.outputs (step (State.reset.withFetchWord 40 0x8080903C64)) = some [.sendResult false] := by decide

/-! ### Instructions, one step each; V and S numbers are of 95_test_vectors.md -/

/-- V4.1. -/
theorem test_noteOff : afterStatus (.noteOff 0#4) [0x80#8, 0x80#8, 0x80#8, 0x3C#8, 0x64#8] = some (ev 0#16 0x80#8 0x3C#8 0x64#8 true, 5) := by decide

/-- V4.10. -/
theorem test_noteOn : afterStatus (.noteOn 0#4) [0x80#8, 0x80#8, 0x90#8, 0x3C#8, 0xF8#8] = some (ev 0#16 0x90#8 0x3C#8 0xF8#8 false, 5) := by decide

/-- V4.7. -/
theorem test_noteOn_short : afterStatus (.noteOn 0#4) [0x80#8, 0x80#8, 0x90#8, 0x3C#8] = some ([], 3) := by decide

/-- V4.3, its second message first in a frame. -/
theorem test_polyPressure : afterStatus (.polyPressure 2#4) [0x80#8, 0x80#8, 0xA2#8, 0x3D#8, 0x32#8] = some (ev 0#16 0xA2#8 0x3D#8 0x32#8 true, 5) := by decide

/-- V4.3, its third message first in a frame. -/
theorem test_controlChange : afterStatus (.controlChange 3#4) [0x80#8, 0x80#8, 0xB3#8, 0x07#8, 0x7F#8] = some (ev 0#16 0xB3#8 0x07#8 0x7F#8 true, 5) := by decide

/-- V4.3, its fourth message first in a frame. -/
theorem test_pitchBend : afterStatus (.pitchBend 4#4) [0x80#8, 0x80#8, 0xE4#8, 0x00#8, 0x40#8] = some (ev 0#16 0xE4#8 0x00#8 0x40#8 true, 5) := by decide

/-- V4.4. -/
theorem test_songPosition : afterStatus .songPosition [0x80#8, 0x80#8, 0xF2#8, 0x10#8, 0x20#8] = some (ev 0#16 0xF2#8 0x10#8 0x20#8 true, 5) := by decide

/-- V5.6. -/
theorem test_programChange : afterStatus (.programChange 0#4) [0x80#8, 0x80#8, 0xC0#8, 0x85#8] = some (ev 0#16 0xC0#8 0x85#8 0x00#8 false, 4) := by decide

/-- V5.5. -/
theorem test_programChange_short : afterStatus (.programChange 0#4) [0x80#8, 0x80#8, 0xC0#8] = some ([], 3) := by decide

/-- V5.2, its second message first in a frame. -/
theorem test_channelPressure : afterStatus (.channelPressure 6#4) [0x80#8, 0x80#8, 0xD6#8, 0x21#8] = some (ev 0#16 0xD6#8 0x21#8 0x00#8 true, 4) := by decide

/-- V5.3. -/
theorem test_timeCode : afterStatus .timeCode [0x80#8, 0x80#8, 0xF1#8, 0x35#8] = some (ev 0#16 0xF1#8 0x35#8 0x00#8 true, 4) := by decide

/-- V5.4. -/
theorem test_songSelect : afterStatus .songSelect [0x80#8, 0x80#8, 0xF3#8, 0x07#8] = some (ev 0#16 0xF3#8 0x07#8 0x00#8 true, 4) := by decide

/-- V6.2. -/
theorem test_tuneRequest : afterStatus .tuneRequest [0x80#8, 0x80#8, 0xF6#8] = some (ev 0#16 0xF6#8 0x00#8 0x00#8 true, 3) := by decide

/-- V6.1. -/
theorem test_clock : afterStatus .clock [0x80#8, 0x80#8, 0xF8#8] = some (ev 0#16 0xF8#8 0x00#8 0x00#8 true, 3) := by decide

/-- V6.3, this message first in a frame. -/
theorem test_start : afterStatus .start [0x80#8, 0x80#8, 0xFA#8] = some (ev 0#16 0xFA#8 0x00#8 0x00#8 true, 3) := by decide

/-- V6.3, this message first in a frame. -/
theorem test_continueMsg : afterStatus .continueMsg [0x80#8, 0x80#8, 0xFB#8] = some (ev 0#16 0xFB#8 0x00#8 0x00#8 true, 3) := by decide

/-- V6.3, this message first in a frame. -/
theorem test_stop : afterStatus .stop [0x80#8, 0x80#8, 0xFC#8] = some (ev 0#16 0xFC#8 0x00#8 0x00#8 true, 3) := by decide

/-- V6.3, this message first in a frame. -/
theorem test_activeSensing : afterStatus .activeSensing [0x80#8, 0x80#8, 0xFE#8] = some (ev 0#16 0xFE#8 0x00#8 0x00#8 true, 3) := by decide

/-- V6.3, this message first in a frame. -/
theorem test_sysReset : afterStatus .sysReset [0x80#8, 0x80#8, 0xFF#8] = some (ev 0#16 0xFF#8 0x00#8 0x00#8 true, 3) := by decide

/-- V7.3. -/
theorem test_sysexStart : afterStatus .sysexStart [0x80#8, 0x80#8, 0xF0#8, 0x7E#8, 0x7F#8] = some ([], 4) := by decide

/-- V7.1. -/
theorem test_undefF4 : afterStatus .undefF4 [0x80#8, 0x80#8, 0xF4#8, 0x01#8, 0x02#8] = some ([], 4) := by decide

/-- V7.5. -/
theorem test_undefF5 : afterStatus .undefF5 [0x80#8, 0x80#8, 0xF5#8, 0x81#8, 0x90#8] = some ([], 4) := by decide

/-- V7.3, its last status at the end of a frame. -/
theorem test_sysexEnd : afterStatus .sysexEnd [0x80#8, 0x80#8, 0xF7#8] = some ([], 4) := by decide

/-- V7.2. -/
theorem test_undefF9 : afterStatus .undefF9 [0x80#8, 0x80#8, 0xF9#8] = some ([], 4) := by decide

/-- V7.4. -/
theorem test_undefFD : afterStatus .undefFD [0x80#8, 0x80#8, 0xFD#8, 0x00#8, 0x81#8] = some ([], 4) := by decide

/-- A status of no category stays in `rs` (R160). -/
theorem test_other_status_stays : got State.rs (exec .undefF4 (walk [0x80#8, 0x80#8, 0xF4#8] 2 .lookAhead 0x90#8)) = some 0xF4#8 := by
  decide

/-- V1.7: bits 7 and 6 of the framing byte are not part of the accumulator. -/
theorem test_frame : got (fun t => (t.tsHigh, t.ts, t.i)) (exec (.frame 0b11#2 63#6) idle) = some (8064#16, 8064#16, 1) := by
  decide

/-- V2.4: an equal low counts as a wrap. -/
theorem test_ts_equal_wraps :
    got (fun t => (t.tsHigh, t.ts, t.i)) (exec (.ts 0#7) (walk [0x80#8, 0x80#8, 0x90#8, 0x3C#8, 0x64#8, 0x80#8] 5 .iterStart 0x90#8)) =
      some (128#16, 128#16, 6) := by decide

/-- V2.10: the first low of an invocation does not wrap. -/
theorem test_ts_first_does_not_wrap :
    got (fun t => (t.tsHigh, t.ts, t.i)) (exec (.ts 0#7) { walk [0x80#8, 0x80#8, 0x90#8] 1 .iterStart 0#8 with tsLowSeen := false }) =
      some (0#16, 0#16, 2) := by decide

/-- S2, its second message: within the callback the cursor is still at the data bytes. -/
theorem test_run :
    got (fun t => (t.outputs, t.i)) (exec (.run 0x3E#8) (walk [0x80#8, 0x80#8, 0x90#8, 0x3C#8, 0x64#8, 0x3E#8, 0x64#8] 5 .iterStart 0x90#8)) =
      some (ev 0#16 0x90#8 0x3E#8 0x64#8 true, 5) := by decide

/-- V6.6, its second iteration: the event is emitted once, and when the consumer has returned the walk ends. -/
theorem test_run_stall :
    got (fun t => (t.outputs, t.phase, (consumerReturns t).i, (consumerReturns t).phase)) (exec (.run 0x00#8) (walk [0x80#8, 0x80#8, 0xF8#8, 0x00#8] 3 .iterStart 0xF8#8)) =
      some (ev 0#16 0xF8#8 0x00#8 0x00#8 true, .iterStart, 3, .walkEnded) := by decide

/-- S5: the frame as the source gives it, on the channel of the parameters. -/
theorem test_send :
    got State.outputs (exec (.send 0x80#8 0x3C#8 0x64#8) { idle with conn := some 9 }) =
      some [.notify 9 7 [0x80#8, 0x80#8, 0x80#8, 0x3C#8, 0x64#8] 5, .sendResult true] := by decide

/-- S4: the sentinel in place of a connection. -/
theorem test_send_sentinel :
    got State.outputs (exec (.send 0xF8#8 0x00#8 0x00#8) { idle with conn := some 0xFFFF }) = some [.sendResult false] := by
  decide

/-- P6, row 3: when the consumer returns from the first event of the frame the cursor becomes 5. -/
theorem test_consumer_returns :
    got (fun t => (t.i, t.phase, t.inCallback))
      (step { walk [0x80#8, 0x85#8, 0x90#8, 0x3C#8, 0x64#8, 0x3E#8, 0x00#8] 3 .lookAhead 0x90#8 with inCallback := true }) =
      some (5, .iterStart, false) := by decide

/-- P6, row 2: a SEND inside the callback leaves the walk where it is. -/
theorem test_send_inside_callback :
    got (fun t => (t.i, t.phase, t.inCallback, t.outputs.length))
      (step { walk [0x80#8, 0x85#8, 0x90#8, 0x3C#8, 0x64#8, 0x3E#8, 0x00#8] 3 .lookAhead 0x90#8 with
        inCallback := true, conn := some 9, inputs := [.send 0x90#8 0x3C#8 0x64#8] }) =
      some (3, .lookAhead, true, 2) := by decide

/-- V6.8: a timestamp byte at the end of the frame re-emits a zero-data message. -/
theorem test_carry_over_at_end :
    got (fun t => (t.outputs.length, t.i, t.phase)) (step (walk [0x80#8, 0x80#8, 0xF8#8, 0x85#8] 4 .lookAhead 0xF8#8)) =
      some (1, 4, .lookAhead) := by decide

/-- V8.1: without a consumer the walk does not start. -/
theorem test_decode_without_consumer :
    got State.phase (step { asked (.decode [0x80#8, 0x80#8, 0x90#8, 0x3C#8, 0x64#8] 5) with consReg := false }) =
      some .walkEnded := by decide

/-- P1 of the vectors, as the pseudocode: running status, two wraps, stale data. -/
theorem test_whole_decode :
    decodedEvents true (Memory.ofBytes [0x85#8, 0xFA#8, 0x91#8, 0x30#8, 0x40#8, 0x31#8, 0x41#8, 0xFB#8, 0xC1#8, 0x07#8, 0x82#8,
      0xB1#8, 0x40#8, 0x7F#8, 0x82#8, 0xF8#8]) 16 =
      [(⟨0x80#8, 762#16, 0x91#8, 0x30#8, 0x40#8⟩, true), (⟨0x80#8, 762#16, 0x91#8, 0x31#8, 0x41#8⟩, true),
       (⟨0x80#8, 763#16, 0xC1#8, 0x07#8, 0x41#8⟩, true), (⟨0x80#8, 770#16, 0xB1#8, 0x40#8, 0x7F#8⟩, true),
       (⟨0x80#8, 898#16, 0xF8#8, 0x40#8, 0x7F#8⟩, true)] := by decide

/-! ### A witness for every statement that has hypotheses, one conjunct for each clause, at the ends of its ranges -/

/-- A three-byte frame at the look-ahead, and the five-byte frame of S1. -/
abbrev three (b : Byte) : List Byte := [0x80#8, 0x80#8, b]
abbrev five : List Byte := [0x80#8, 0x80#8, 0x90#8, 0x3C#8, 0x64#8]

theorem witness_DecodeInvertsEncode : WellFormed (.noteOn 15#4) ∧ WellFormed (.run 0x7F#8) := by decide

theorem witness_EncodeInvertsDecode : decode .lookAhead [0x7F#8, 0x80#8] = .ok (.run 0x7F#8, [0x80#8]) := rfl

theorem witness_ArityCountsOfStatusValues : (0x7F#8).msb = false := by decide

theorem witness_PositionDecidesByteKind : (0x80#8).msb = true ∧ (0x7F#8).msb = false := by decide

theorem witness_TwoDataMessagesComplete :
    (walk five 2 .lookAhead 0#8).i + 2 < (walk five 2 .lookAhead 0#8).len ∧ (walk five 2 .lookAhead 0#8).inputs = [] := by
  decide

theorem witness_TwoDataMessagesDropWhenShort :
    (walk (five.take 4) 2 .lookAhead 0#8).len ≤ (walk (five.take 4) 2 .lookAhead 0#8).i + 2 := by decide

theorem witness_OneDataMessagesComplete :
    (walk (five.take 4) 2 .lookAhead 0#8).i + 1 < (walk (five.take 4) 2 .lookAhead 0#8).len ∧
      (walk (five.take 4) 2 .lookAhead 0#8).inputs = [] := by decide

theorem witness_OneDataMessagesDropWhenShort :
    (walk (three 0xC0#8) 2 .lookAhead 0#8).len ≤ (walk (three 0xC0#8) 2 .lookAhead 0#8).i + 1 := by decide

theorem witness_ZeroDataMessagesComplete : (walk (three 0xF8#8) 2 .lookAhead 0#8).inputs = [] := rfl

theorem witness_FramingByteSeedsAccumulator :
    0xC0#8 ∈ [0x00#8, 0x40#8, 0x80#8, 0xC0#8] ∧ 0xFF#8 ∈ [0x3F#8, 0x7F#8, 0xBF#8, 0xFF#8] := by decide

theorem witness_TimestampKeepsItsTwoParts :
    ∃ t, (walk five 1 .iterStart 0#8).tsHigh.toNat % 128 = 0 ∧ exec (.ts 127#7) (walk five 1 .iterStart 0#8) = .next t :=
  ⟨_, by decide, rfl⟩

theorem witness_RunningStatusMessageCompletes :
    (walk five 2 .lookAhead 0#8).rs = 0x00#8 ∧
    (let s := walk five 3 .iterStart 0x90#8; s.rs ≠ 0x00#8 ∧ arity s.rs = .two ∧ s.i + 1 < s.len) ∧
    (let s := walk five 4 .iterStart 0x90#8; s.rs ≠ 0x00#8 ∧ arity s.rs = .two ∧ s.len ≤ s.i + 1) ∧
    (let s := walk five 4 .iterStart 0xC0#8; s.rs ≠ 0x00#8 ∧ arity s.rs = .one ∧ s.i < s.len) ∧
    (let s := walk five 5 .lookAhead 0xC0#8; s.rs ≠ 0x00#8 ∧ arity s.rs = .one ∧ s.len ≤ s.i) ∧
    (let s := walk five 4 .iterStart 0xF8#8; s.rs ≠ 0x00#8 ∧ arity s.rs = .zero ∧ s.phase = .iterStart) ∧
    (let s := walk five 4 .lookAhead 0xF8#8; s.rs ≠ 0x00#8 ∧ arity s.rs = .zero ∧ s.phase ≠ .iterStart) ∧
    (let s := walk five 4 .lookAhead 0xF4#8; s.rs ≠ 0x00#8 ∧ arity s.rs = .other) ∧
    (∀ i p rs, (walk five i p rs).inputs = []) := by
  refine ⟨by decide, by decide, by decide, by decide, by decide, by decide, by decide, by decide, fun _ _ _ => rfl⟩

theorem witness_RunningStatusCarriesOver :
    (∃ t, exec (.run 0x3E#8) (walk five 3 .iterStart 0x90#8) = .next t) ∧
    ∃ t, exec (.ts 0#7) (walk five 1 .iterStart 0#8) = .next t := ⟨⟨_, rfl⟩, ⟨_, rfl⟩⟩

/-- An idle codec whose transport reports connection `c`. -/
abbrev connected (c : Nat) : State := { idle with conn := some c }

theorem witness_SendSerialisesFiveBytes :
    (connected 0xFFFE).tx.wf ∧ (connected 0xFFFE).conn = some 0xFFFE ∧ (connected 0xFFFE).params.connNone ≠ some 0xFFFE :=
  ⟨Memory.wf_nil, by decide⟩

theorem witness_SendResultIsTheConnection :
    idle.conn = none ∧ ((connected 0xFFFF).conn = some 0xFFFF ∧ (connected 0xFFFF).params.connNone = some 0xFFFF) ∧
    ((connected 0).conn = some 0 ∧ (connected 0).params.connNone ≠ some 0) := by decide

theorem witness_StatusMessageFrame :
    ∃ t, positionOf (.noteOn 0#4) = .lookAhead ∧ exec (.noteOn 0#4) (walk five 2 .lookAhead 0#8) = .next t ∧
      arity t.rs = .two ∧
      ∃ u, exec .clock (walk five 2 .lookAhead 0#8) = .next u ∧ arity u.rs = .zero ∧
      ∃ v, exec .undefF4 (walk five 2 .lookAhead 0#8) = .next v ∧ arity v.rs = .other :=
  ⟨_, rfl, rfl, by decide, _, rfl, by decide, _, rfl, by decide⟩

theorem witness_RunFrame :
    ∃ t, exec (.run 0x3E#8) (walk five 3 .iterStart 0xF4#8) = .next t ∧ arity (walk five 3 .iterStart 0xF4#8).rs = .other ∧
      ∃ u, exec (.run 0x3E#8) (walk five 3 .iterStart 0x90#8) = .next u ∧
        arity (walk five 3 .iterStart 0x90#8).rs = .two :=
  ⟨_, rfl, by decide, _, rfl, by decide⟩

theorem witness_FramingAndTimestampFrame :
    (∃ t, exec (.frame 0b10#2 5#6) idle = .next t) ∧ ∃ t, exec (.ts 5#7) (walk five 1 .iterStart 0#8) = .next t :=
  ⟨⟨_, rfl⟩, ⟨_, rfl⟩⟩

theorem witness_SendFrame :
    (∃ t, idle.tx.wf ∧ exec (.send 0x90#8 0x3C#8 0x64#8) idle = .next t ∧ idle.conn = none) ∧
    (∃ t, (connected 0xFFFF).tx.wf ∧ exec (.send 0x90#8 0x3C#8 0x64#8) (connected 0xFFFF) = .next t ∧
      (connected 0xFFFF).conn = (connected 0xFFFF).params.connNone) ∧
    ∃ t, (connected 9).tx.wf ∧ exec (.send 0x90#8 0x3C#8 0x64#8) (connected 9) = .next t :=
  ⟨⟨_, Memory.wf_nil, rfl, rfl⟩, ⟨_, Memory.wf_nil, rfl, rfl⟩, ⟨_, Memory.wf_nil, rfl⟩⟩

/-- The Decoder before the framing byte of a frame. -/
abbrev atFraming (bs : List Byte) : State := { walk bs 0 .framing 0#8 with tsLowSeen := false }

theorem witness_StepRunsDecodedInstruction :
    (decoderFree (atFraming five) ∧ (atFraming five).phase = .framing ∧ 0 < (atFraming five).len ∧
      decode .framing [(atFraming five).buf.read 0] = .ok (.frame 0b10#2 0#6, [])) ∧
    (let s := walk five 4 .iterStart 0x90#8
     decoderFree s ∧ s.phase = .iterStart ∧ s.i < s.len ∧ decode .iterStart [s.buf.read s.i] = .ok (.run 0x64#8, [])) ∧
    (let s := walk five 2 .lookAhead 0#8
     decoderFree s ∧ s.phase = .lookAhead ∧ s.i < s.len ∧ decode .lookAhead [s.buf.read s.i] = .ok (.noteOn 0#4, [])) ∧
    taking (asked (.send 0x90#8 0x3C#8 0x64#8)) (.send 0x90#8 0x3C#8 0x64#8) [] ∧ taking (asked .turn) .turn [] :=
  ⟨⟨by decide, rfl, by decide, rfl⟩, ⟨by decide, rfl, by decide, rfl⟩, ⟨by decide, rfl, by decide, rfl⟩, rfl, rfl⟩

theorem witness_InvocationEndsWithStatusZero :
    (decoderFree (walk five 3 .walkEnded 0xF8#8) ∧ (walk five 3 .walkEnded 0xF8#8).phase = .walkEnded) ∧
    (decoderFree (walk five 5 .iterStart 0x90#8) ∧ (walk five 5 .iterStart 0x90#8).phase = .iterStart ∧
      (walk five 5 .iterStart 0x90#8).len ≤ (walk five 5 .iterStart 0x90#8).i) := by decide

theorem witness_TimestampByteAtTheEnd :
    (∀ rs, let s := walk five 5 .lookAhead rs; decoderFree s ∧ s.phase = .lookAhead ∧ s.i = s.len) ∧
    arity 0x90#8 = .two ∧ arity 0xC0#8 = .one ∧ (0xF8#8 ≠ 0x00#8 ∧ arity 0xF8#8 = .zero) ∧
    (0xF4#8 ≠ 0x00#8 ∧ arity 0xF4#8 = .other) :=
  ⟨fun _ => ⟨⟨rfl, rfl, rfl⟩, rfl, rfl⟩, by decide⟩

theorem walk_five_inv {i : Nat} {p : Phase} {rs : Byte} (hp : p = .iterStart ∨ p = .lookAhead ∨ p = .walkEnded)
    (hi : 2 ≤ i ∧ i ≤ 5) (hr : rs = 0x00#8 ∨ rs.msb = true) : (walk five i p rs).Inv :=
  walk_inv (by decide) hp hi hr

/-- A good state within `Emit()` of the message of the frame of S1: the consumer holds the event. -/
abbrev calling (p : Phase) (rs : Byte) : State := { walk five 3 p rs with inCallback := true }

theorem calling_inv : (calling .lookAhead 0x90#8).Inv :=
  { walk_five_inv (i := 3) (p := .lookAhead) (rs := 0x90#8) (.inr (.inl rfl)) (by omega) (.inr (by decide)) with
    idle := fun h => by cases h
    framing := fun h => by cases h
    holding := fun _ => ⟨.inr rfl, by decide, (by decide : 3 + 1 < 5)⟩ }

theorem witness_ConsumerReturnAndIdle :
    (let s := calling .lookAhead 0x90#8; hostsQuiet s ∧ s.inCallback = true ∧ arity s.rs = .two) ∧
    (let s := calling .iterStart 0xC0#8; hostsQuiet s ∧ s.inCallback = true ∧ arity s.rs = .one) ∧
    (let s := calling .iterStart 0xF8#8; hostsQuiet s ∧ s.inCallback = true ∧ arity s.rs = .zero ∧ s.phase = .iterStart) ∧
    (let s := calling .lookAhead 0xF8#8; hostsQuiet s ∧ s.inCallback = true ∧ arity s.rs = .zero ∧ s.phase ≠ .iterStart) ∧
    (hostsQuiet idle ∧ idle.inCallback = false ∧ idle.decBusy = false) := by decide

/-- The same host action pending during a DECODE. -/
abbrev askedBusy (a : Input) : State := { walk five 5 .iterStart 0x90#8 with inputs := [a] }

theorem witness_RegisterReplacesTarget :
    (taking (asked (.register 255)) (.register 255) [] ∧ (asked (.register 255)).decBusy = false ∧
      255 < 2 ^ (asked (.register 255)).params.targetW) ∧
    (taking (askedBusy (.register 0)) (.register 0) [] ∧ (askedBusy (.register 0)).decBusy = true) := by decide

theorem witness_ResetRequestClears :
    (taking (asked .reset) .reset [] ∧ (asked .reset).decBusy = false) ∧
    (taking (askedBusy .reset) .reset [] ∧ (askedBusy .reset).decBusy = true) := by decide

theorem witness_DecodeRequestEntryChecks :
    (let s := asked (.decode five 3); taking s (.decode five 3) [] ∧ s.decBusy = false ∧ 3 ≤ s.params.lenMax ∧ 3 ≤ five.length) ∧
    (let s := asked (.decode [] 0); taking s (.decode [] 0) [] ∧ s.decBusy = false ∧ 0 ≤ s.params.lenMax) ∧
    (let s := askedBusy (.decode five 5); taking s (.decode five 5) [] ∧ s.decBusy = true) ∧
    (let s := asked (.decode five 6); taking s (.decode five 6) [] ∧ s.decBusy = false ∧ 6 ≤ s.params.lenMax ∧
      five.length < 6) := by decide

theorem witness_FrameIsStableDuringDecode :
    (∃ t, (calling .lookAhead 0x90#8).Inv ∧ step (calling .lookAhead 0x90#8) = .next t ∧
      (calling .lookAhead 0x90#8).decBusy = true ∧ t.decBusy = true) ∧
    (let s := askedBusy (.bufferByte 4 0#8)
     taking s (.bufferByte 4 0#8) [] ∧ s.decBusy = true ∧ 4 < s.len ∧ 0#8 ≠ s.buf.read 4) ∧
    (let s := askedBusy (.bufferByte 5 1#8); taking s (.bufferByte 5 1#8) [] ∧ s.decBusy = true ∧ s.len ≤ 5) ∧
    (let s := askedBusy (.bufferByte 4 0x64#8)
     taking s (.bufferByte 4 0x64#8) [] ∧ s.decBusy = true ∧ 0x64#8 = s.buf.read 4) ∧
    (let s := askedBusy (.bufferLength 4); taking s (.bufferLength 4) [] ∧ s.decBusy = true ∧ 4 ≠ s.len) ∧
    (let s := askedBusy (.bufferLength 5); taking s (.bufferLength 5) [] ∧ s.decBusy = true ∧ 5 = s.len) ∧
    (let s := askedBusy (.connection (some 0xFFFF)); taking s (.connection (some 0xFFFF)) [] ∧ 0xFFFF < 2 ^ s.params.connW) ∧
    taking (askedBusy (.connection none)) (.connection none) [] := ⟨⟨_, calling_inv, rfl, rfl, rfl⟩, by decide⟩

/-- S1 at its status byte, a good state that has a next one and emits an event. -/
theorem walk_at_status_inv : (walk five 2 .lookAhead 0#8).Inv :=
  walk_five_inv (.inr (.inl rfl)) (by omega) (.inl rfl)

theorem witness_StepKeepsInvariant :
    ∃ t, (walk five 2 .lookAhead 0#8).Inv ∧ step (walk five 2 .lookAhead 0#8) = .next t := ⟨_, walk_at_status_inv, rfl⟩

theorem witness_OnlyBrokenDutiesStopTheCodec :
    (idle.Inv ∧ idle.inputs = []) ∧
    ((asked (.register 255)).Inv ∧ taking (asked (.register 255)) (.register 255) [] ∧
      keepsDuties (.register 255) (asked (.register 255)) = true) ∧
    ((asked (.register 256)).Inv ∧ taking (asked (.register 256)) (.register 256) [] ∧
      keepsDuties (.register 256) (asked (.register 256)) = false) :=
  ⟨⟨idle_inv, rfl⟩, ⟨inv_withInputs idle_inv _, rfl, by decide⟩, ⟨inv_withInputs idle_inv _, rfl, by decide⟩⟩

theorem witness_RunningStatusHasThreeWriters :
    (∃ t, step (walk five 2 .lookAhead 0#8) = .next t ∧ t.rs ≠ (walk five 2 .lookAhead 0#8).rs) ∧
    (∃ t, step (walk five 5 .iterStart 0x90#8) = .next t ∧ t.rs ≠ (walk five 5 .iterStart 0x90#8).rs) ∧
    ∃ t, step { asked .reset with rs := 0x90#8 } = .next t ∧ t.rs ≠ ({ asked .reset with rs := 0x90#8 } : State).rs :=
  ⟨⟨_, rfl, by decide⟩, ⟨_, rfl, by decide⟩, ⟨_, rfl, by decide⟩⟩

theorem witness_OwnershipOfPortState :
    (∃ t, step (asked (.register 6)) = .next t ∧ t.consTarget ≠ (asked (.register 6)).consTarget) ∧
    ∃ t, step (asked (.connection (some 6))) = .next t ∧ t.conn ≠ (asked (.connection (some 6))).conn :=
  ⟨⟨_, rfl, by decide⟩, ⟨_, rfl, by decide⟩⟩

theorem witness_EventsCarryTheRegisters :
    ∃ t, (walk five 2 .lookAhead 0#8).Inv ∧ step (walk five 2 .lookAhead 0#8) = .next t ∧
      Output.event 5 ⟨0x80#8, 0#16, 0x90#8, 0x3C#8, 0x64#8⟩ true ∈ t.outputs :=
  ⟨_, walk_at_status_inv, rfl, by decide⟩

theorem witness_SendDoesNotDisturbTheWalk :
    ∃ s' t, positionOf (.noteOn 0#4) ≠ .outbound ∧
      exec (.send 0x90#8 0x3C#8 0x64#8) { walk five 2 .lookAhead 0#8 with conn := some 9 } = .next s' ∧
      exec (.noteOn 0#4) { walk five 2 .lookAhead 0#8 with conn := some 9 } = .next t :=
  ⟨_, _, by decide, rfl, rfl⟩

theorem witness_DecoderWaitsForConsumer :
    let s : State := { calling .lookAhead 0x90#8 with inputs := [.send 0x90#8 0x3C#8 0x64#8] }
    ∃ t, s.Inv ∧ s.inCallback = true ∧ step s = .next t ∧ t.inCallback = true :=
  ⟨_, inv_withInputs calling_inv _, rfl, rfl, rfl⟩

theorem witness_SubmittedBytesInWireOrder :
    ∃ t, (connected 9).tx.wf ∧ exec (.send 0x90#8 0x3C#8 0x64#8) (connected 9) = .next t ∧
      Output.notify 9 7 [0x80#8, 0x80#8, 0x90#8, 0x3C#8, 0x64#8] 5 ∈ t.outputs ∧
      Memory.wf (Memory.ofBytes [0xFF#8, 0xFF#8, 0xFF#8, 0xFF#8, 0xFF#8]) :=
  ⟨_, Memory.wf_nil, rfl, by decide, Memory.ofBytes_wf _⟩

theorem witness_DecodeAlwaysEnds :
    (walk five 2 .lookAhead 0#8).Inv ∧ (walk five 2 .lookAhead 0#8).decBusy = true ∧
      hostsQuiet (walk five 2 .lookAhead 0#8) := ⟨walk_at_status_inv, rfl, rfl⟩

theorem pending_five (n : Nat) (hn : n ≤ 5) : decodePending (asked (.decode five n)) five n :=
  ⟨inv_withInputs idle_inv _, rfl, rfl, (by omega : n ≤ 16), hn⟩

theorem witness_DecodeRefinesPseudocode :
    decodePending (asked (.decode five 5)) five 5 ∧ decodePending (asked (.decode five 2)) five 2 :=
  ⟨pending_five 5 (by omega), pending_five 2 (by omega)⟩

theorem witness_FrameYieldsFewerEventsThanBytes :
    decodePending (asked (.decode five 3)) five 3 ∧ decodePending (asked (.decode five 2)) five 2 ∧
      ∃ t, reaches 1 (asked (.decode five 3)) t := ⟨pending_five 3 (by omega), pending_five 2 (by omega), _, rfl⟩

/-- Two idle codecs with the same registration and different registers. -/
theorem witness_DecodingIsIdempotent :
    decodePending (asked (.decode five 5)) five 5 ∧
    decodePending { asked (.decode five 5) with d1 := 0x3C#8, d2 := 0x64#8, ts := 7#16 } five 5 ∧
    (asked (.decode five 5)).consReg = ({ asked (.decode five 5) with d1 := 0x3C#8, d2 := 0x64#8, ts := 7#16 } : State).consReg :=
  ⟨pending_five 5 (by omega),
    ⟨{ (pending_five 5 (by omega)).1 with
        walkStamp := fun hp => by rcases hp with hp | hp <;> cases hp }, rfl, rfl, by decide, by decide⟩, rfl⟩

theorem witness_TwoDataFramesReadBack :
    arity 0x90#8 = .two ∧ (asked (.decode five 5)).consReg = true ∧ decodePending (asked (.decode five 5)) five 5 :=
  ⟨by decide, rfl, pending_five 5 (by omega)⟩

end Sys2Proof.Tests
end

section
/-! PROOFS. What a SEND submits (R56): the two outcomes of SEND read backwards, and the submitted list as the offsets of the
filled buffer. -/
namespace Sys2Proof.Machine

/-- The inversion of SEND: it either had no connection and only answered, or filled the buffer, submitted it and answered. -/
theorem exec_send_cases {c d e : Byte} {s t : State} (h : exec (.send c d e) s = .next t) :
    (connLookup s = none ∧ t = sendResult false s) ∨
      ∃ k, connLookup s = some k ∧ t = sendResult true (submit k (serialize c d e s)) := by
  cases hl : connLookup s with
  | none =>
    rw [exec_send_none c d e s hl] at h
    exact .inl ⟨rfl, (Host.Outcome.next.inj h).symm⟩
  | some k =>
    rw [exec_send_some c d e s hl] at h
    exact .inr ⟨k, rfl, (Host.Outcome.next.inj h).symm⟩

/-- What a SEND with a connection adds to the outputs: one submission of the five bytes, then the result 1. -/
theorem submitted_outputs (c d e : Byte) (k : Nat) {s : State} (h : s.tx.wf) :
    (sendResult true (submit k (serialize c d e s))).outputs =
      s.outputs ++ [.notify k s.params.chanOut [0x80#8, 0x80#8, c, d, e] 5, .sendResult true] := by
  simp [Config.txLen, bytes_serializedFrame c d e h]

/-- A filled buffer read in the order of its offsets is the five bytes of the frame, whatever stood in it before. -/
theorem reads_serializedFrame (c d e : Byte) {m : Memory} (h : m.wf) :
    [(serializedFrame c d e m).read 0, (serializedFrame c d e m).read 1, (serializedFrame c d e m).read 2,
      (serializedFrame c d e m).read 3, (serializedFrame c d e m).read 4] = [0x80#8, 0x80#8, c, d, e] :=
  bytes_serializedFrame c d e h

/-- Settles O45: of the two outcomes of SEND only the one with a connection submits, and it submits the five bytes that a
filled buffer holds at offsets 0 to 4. -/
theorem submittedBytesInWireOrder : Obligations.SubmittedBytesInWireOrder := by
  intro command d1 d2 s t hwf hexec
  obtain ⟨-, rfl⟩ | ⟨k, -, rfl⟩ := exec_send_cases hexec
  case inl => exact ⟨[.sendResult false], rfl, by simp⟩
  case inr =>
    refine ⟨_, submitted_outputs command d1 d2 k hwf, fun c ch bytes n hmem => ?_⟩
    obtain ⟨-, -, rfl, rfl⟩ : c = k ∧ ch = s.params.chanOut ∧ bytes = [0x80#8, 0x80#8, command, d1, d2] ∧ n = 5 := by
      simpa using hmem
    exact ⟨rfl, rfl, fun before hb => (reads_serializedFrame command d1 d2 hb).symm⟩

end Sys2Proof.Machine
end

section
/-! PROOFS. The timestamp byte (R107 to R110): every state has one outcome of TS, and the cursor of that outcome. -/
namespace Sys2Proof.Machine

/-- TS has one outcome, in every state: the timestamp byte is consumed. -/
theorem exec_ts (low : StampLow) (s : State) : exec (.ts low) s = .next (timestampByte low s) := rfl

/-- Settles O15: the outcome of TS is the state after the timestamp byte, whose cursor is one further. -/
theorem timestampByteAdvancesCursor : Obligations.TimestampByteAdvancesCursor := fun low s =>
  ⟨timestampByte low s, exec_ts low s, timestampByte_i low s⟩

end Sys2Proof.Machine
end

section
/-! PROOFS. The wire (30_encoding.md): each of the four positions read back from its bytes and written again, byte by byte. -/
namespace Sys2Proof.Machine

/-- A status message stands on one byte, which is read back as it (R80, R81). -/
theorem statusByte_of_lookAhead {i : Instr} (h : positionOf i = .lookAhead) :
    ∃ b, encode i = [b] ∧ decodeStatus b = some i := by
  cases i with
  | noteOff ch | noteOn ch | polyPressure ch | controlChange ch | pitchBend ch
  | programChange ch | channelPressure ch =>
    refine ⟨_, rfl, ?_⟩
    revert ch
    decide
  | frame _ _ | ts _ | run _ | send _ _ _ => cases h
  | _ => exact ⟨_, rfl, rfl⟩

/-- A byte with bit 7 set is a status byte, a byte with bit 7 clear is not (R71 to R74). -/
theorem decodeLookAhead_status {b : Byte} {i : Instr} (h : decodeStatus b = some i) : decodeLookAhead b = i := by
  simp [decodeLookAhead, h]

theorem decodeLookAhead_data {b : Byte} (h : b.msb = false) : decodeLookAhead b = .run b := by
  simp [decodeLookAhead, decodeStatus_low b h]

/-- Every byte with bit 7 set is a status message in the look-ahead, encoded as that byte. -/
theorem decodeStatus_of_msb {b : Byte} (h : b.msb = true) :
    ∃ i, decodeStatus b = some i ∧ encode i = [b] ∧ positionOf i = .lookAhead := by
  have henc := encode_decodeStatus b h
  have hpos := positionOf_decodeStatus b
  cases hd : decodeStatus b with
  | none => simp [hd] at henc
  | some i => exact ⟨i, rfl, by simpa [hd] using henc, by simpa [hd] using hpos⟩

theorem decodeIterStart_stamp {b : Byte} (h : b.msb = true) : decodeIterStart b = .ts (b.extractLsb' 0 7) := if_pos h

theorem decodeIterStart_data {b : Byte} (h : b.msb = false) : decodeIterStart b = .run b := by
  simp [decodeIterStart, h]

theorem decodeFraming_append (mark : BitVec 2) (th : StampHigh) : decodeFraming (mark ++ th) = .frame mark th := by
  have hm : (mark ++ th).extractLsb' 6 2 = mark := BitVec.extractLsb'_append_eq_left
  have ht : (mark ++ th).extractLsb' 0 6 = th := BitVec.extractLsb'_append_eq_right
  rw [decodeFraming, hm, ht]

theorem decodeIterStart_append (low : StampLow) : decodeIterStart (1#1 ++ low) = .ts low := by
  have hl : (1#1 ++ low).extractLsb' 0 7 = low := BitVec.extractLsb'_append_eq_right
  have hb : (1#1 ++ low).msb = true := by rw [BitVec.msb_append]; rfl
  rw [decodeIterStart_stamp hb, hl]

/-- No bit of a byte is lost at the framing position or in a timestamp byte (R71, R72). -/
theorem framing_bits : ∀ b : Byte, b.extractLsb' 6 2 ++ b.extractLsb' 0 6 = b := by decide

theorem stamp_bits : ∀ b : Byte, b.msb = true → 1#1 ++ b.extractLsb' 0 7 = b := by decide

theorem wellFormed_run {d : Byte} : WellFormed (.run d) ↔ d.msb = false := by simp [WellFormed, Instr.wf]

theorem wellFormed_of_lookAhead {i : Instr} (h : positionOf i = .lookAhead) : WellFormed i := by
  cases i with
  | frame _ _ | ts _ | run _ | send _ _ _ => cases h
  | _ => rfl

/-- A status message is read back in the look-ahead, whatever follows it. -/
theorem decode_status_encode {i : Instr} (h : positionOf i = .lookAhead) (rest : List Byte) :
    decode .lookAhead (encode i ++ rest) = .ok (i, rest) := by
  obtain ⟨b, henc, hdec⟩ := statusByte_of_lookAhead h
  rw [henc]
  exact congrArg (fun i => Except.ok (i, rest)) (decodeLookAhead_status hdec)

/-- Settles O1: the status messages by their one byte, the other four constructors each at its position. -/
theorem decodeInvertsEncode : Obligations.DecodeInvertsEncode := by
  refine ⟨fun i rest hwf => ?_, fun d rest hwf => ?_⟩
  · cases i with
    | frame mark th => exact congrArg (fun i => Except.ok (i, rest)) (decodeFraming_append mark th)
    | ts low => exact congrArg (fun i => Except.ok (i, rest)) (decodeIterStart_append low)
    | run d => exact congrArg (fun i => Except.ok (i, rest)) (decodeIterStart_data (wellFormed_run.1 hwf))
    | send c d e => rfl
    | _ => exact decode_status_encode rfl rest
  · exact congrArg (fun i => Except.ok (i, rest)) (decodeLookAhead_data (wellFormed_run.1 hwf))

/-- An outbound frame that decodes is the SEND of its last three bytes. -/
theorem decodeOutbound_inversion {bs rest : List Byte} {i : Instr} (h : decodeOutbound bs = .ok (i, rest)) :
    ∃ c d e, i = .send c d e ∧ bs = encode (.send c d e) ++ rest := by
  unfold decodeOutbound at h
  split at h
  · split at h
    · rename_i c d e rest' hdr
      cases h
      exact ⟨c, d, e, rfl, by simp [encode, hdr]⟩
    · cases h
  · cases h

/-- Settles O2: by position, and at the two positions of the walk by bit 7 of the byte. -/
theorem encodeInvertsDecode : Obligations.EncodeInvertsDecode := by
  intro p bs i rest h
  cases p with
  | outbound =>
    obtain ⟨c, d, e, rfl, hbs⟩ := decodeOutbound_inversion h
    exact ⟨rfl, hbs, .inl rfl⟩
  | framing =>
    cases bs with
    | nil => cases h
    | cons b bs =>
      cases h
      exact ⟨rfl, congrArg (· :: rest) (framing_bits b).symm, .inl rfl⟩
  | iterStart =>
    cases bs with
    | nil => cases h
    | cons b bs =>
      cases h
      cases hb : b.msb with
      | true =>
        rw [decodeIterStart_stamp hb]
        exact ⟨rfl, congrArg (· :: rest) (stamp_bits b hb).symm, .inl rfl⟩
      | false =>
        rw [decodeIterStart_data hb]
        exact ⟨wellFormed_run.2 hb, rfl, .inl rfl⟩
  | lookAhead =>
    cases bs with
    | nil => cases h
    | cons b bs =>
      cases h
      cases hb : b.msb with
      | true =>
        obtain ⟨i, hdec, henc, hpos⟩ := decodeStatus_of_msb hb
        rw [decodeLookAhead_status hdec, henc]
        exact ⟨wellFormed_of_lookAhead hpos, rfl, .inl hpos⟩
      | false =>
        rw [decodeLookAhead_data hb]
        exact ⟨wellFormed_run.2 hb, rfl, .inr ⟨b, rfl, rfl⟩⟩

/-- Settles O5: the three positions of the walk, the last two by bit 7. -/
theorem positionDecidesByteKind : Obligations.PositionDecidesByteKind := by
  intro b
  refine ⟨rfl, fun hb => ⟨?_, ?_⟩, fun hb => ⟨?_, ?_⟩⟩
  · exact congrArg (fun i => Except.ok (i, [])) (decodeIterStart_stamp hb)
  · obtain ⟨i, hdec, henc, hpos⟩ := decodeStatus_of_msb hb
    exact ⟨i, congrArg (fun i => Except.ok (i, [])) (decodeLookAhead_status hdec), hpos, henc⟩
  · exact congrArg (fun i => Except.ok (i, [])) (decodeIterStart_data hb)
  · exact congrArg (fun i => Except.ok (i, [])) (decodeLookAhead_data hb)

/-- Settles O3: each of the ten words evaluates to its instruction. -/
theorem specWordsDecode : Obligations.SpecWordsDecode :=
  ⟨rfl, rfl, rfl, rfl, rfl, rfl, rfl, rfl, rfl, rfl⟩

/-- A byte with bit 7 clear has no arity, so no data byte is read as a status (R86). -/
theorem arity_data : ∀ s : Byte, s.msb = false → arity s = .other := by decide

/-- Settles O4: the bytes with bit 7 clear by `arity_data`, the 128 others counted. -/
theorem arityCountsOfStatusValues : Obligations.ArityCountsOfStatusValues :=
  ⟨arity_data, by rfl, by rfl, by rfl, by rfl⟩

end Sys2Proof.Machine
end

section
/-! PROOFS. One step, read off the place where the Decoder stands (40_decoder_walk.md): one rule per place, for a codec that no
host disturbs. -/
namespace Sys2Proof.Machine

open Sys2Proof.Expect

section
variable {s : State}

theorem step_free (h : decoderFree s) :
    step s = runMove (codecMove s) ∧ s.inCallback = false ∧ s.decBusy = true :=
  ⟨step_quiet h.1, h.2⟩

theorem step_framing (h : decoderFree s) (hp : s.phase = .framing) (hl : 0 < s.len) :
    step s = exec (decodeFraming (s.buf.read 0)) s := by
  obtain ⟨hstep, hc, hb⟩ := step_free h
  rw [hstep, codecMove_framing hc hb hp, fetchFraming, memRead_of_lt hl]
  rfl

theorem step_iterStart (h : decoderFree s) (hp : s.phase = .iterStart) (hl : s.i < s.len) :
    step s = exec (decodeIterStart (s.buf.read s.i)) s := by
  obtain ⟨hstep, hc, hb⟩ := step_free h
  rw [hstep, codecMove_iterStart hc hb hp, fetchIterStart, memRead_of_lt hl]
  rfl

theorem step_lookAhead (h : decoderFree s) (hp : s.phase = .lookAhead) (hl : s.i < s.len) :
    step s = exec (decodeLookAhead (s.buf.read s.i)) s := by
  obtain ⟨hstep, hc, hb⟩ := step_free h
  rw [hstep, codecMove_lookAhead hc hb hp, fetchLookAhead, memRead_of_lt hl]
  rfl

/-- The look-ahead with no byte left makes none: steps 2 and 3 run at once (R111, R208). -/
theorem step_lookAhead_atEnd (h : decoderFree s) (hp : s.phase = .lookAhead) (hl : s.len ≤ s.i) :
    step s = .next (carryOver Memory.unlisted s) := by
  obtain ⟨hstep, hc, hb⟩ := step_free h
  rw [hstep, codecMove_lookAhead hc hb hp, fetchLookAhead, memRead_of_ge hl]
  rfl

theorem step_walkEnded (h : decoderFree s) (hp : s.phase = .walkEnded) : step s = .next (endInvocation s) := by
  obtain ⟨hstep, hc, hb⟩ := step_free h
  rw [hstep, codecMove_walkEnded hc hb hp]
  rfl

/-- The loop test of R106 fails. -/
theorem step_iterStart_atEnd (h : decoderFree s) (hp : s.phase = .iterStart) (hl : s.len ≤ s.i) :
    step s = .next (endInvocation s) := by
  obtain ⟨hstep, hc, hb⟩ := step_free h
  rw [hstep, codecMove_iterStart hc hb hp, fetchIterStart, memRead_of_ge hl]
  rfl

theorem step_callback (hi : s.inputs = []) (hc : s.inCallback = true) : step s = .next (consumerReturns s) := by
  rw [step_quiet hi, codecMove_callback hc]
  rfl

theorem step_idle (hi : s.inputs = []) (hc : s.inCallback = false) (hb : s.decBusy = false) : step s = .next s := by
  rw [step_quiet hi, codecMove_idle hc hb]
  rfl

end

/-- Settles O25: decoding one byte leaves one instruction, which is the one the place's rule runs. -/
theorem stepRunsDecodedInstruction : Obligations.StepRunsDecodedInstruction := by
  refine ⟨fun s i rest h => ⟨?_, ?_, ?_⟩, fun s c d e rest h => ?_, fun s rest h => ?_⟩
  · rintro hp hl ⟨⟩
    exact step_framing h hp hl
  · rintro hp hl ⟨⟩
    exact step_iterStart h hp hl
  · rintro hp hl ⟨⟩
    exact step_lookAhead h hp hl
  · exact step_host h
  · exact step_host h

/-- Settles O26: the two places from which the end of the invocation is the next step. -/
theorem invocationEndsWithStatusZero : Obligations.InvocationEndsWithStatusZero := by
  rintro s h (hp | ⟨hp, hl⟩)
  · exact step_walkEnded h hp
  · exact step_iterStart_atEnd h hp hl

/-- Settles O28: the return by the arity of the status in force. -/
theorem consumerReturnAndIdle : Obligations.ConsumerReturnAndIdle := by
  intro s hi
  refine ⟨fun hc => ?_, step_idle hi⟩
  rw [step_callback hi hc]
  refine ⟨fun ha => ?_, fun ha => ?_, fun ha hp => ?_, fun ha hp => ?_⟩
  · rw [consumerReturns_two s ha]; rfl
  · rw [consumerReturns_one s ha]; rfl
  · rw [consumerReturns_zero_stalled s ha hp]; rfl
  · rw [consumerReturns_zero_moved s ha hp]; rfl

end Sys2Proof.Machine
end

section
/-! PROOFS. Steps 2 and 3 in every form, and the status messages as the tracker followed by them (41 to 44): the exact next
state, and where the walk resumes when the consumer returns. -/
namespace Sys2Proof.Machine

open Sys2Proof.Expect

/-- A byte with an arity is a status byte (R86). -/
theorem msb_of_arity {st : Byte} (h : arity st ≠ .other) : st.msb = true := by
  cases hm : st.msb with
  | true => rfl
  | false => exact absurd (arity_data st hm) h

/-- Step 2 lets every status with an arity pass (R113). -/
theorem ne_zero_of_arity {st : Byte} (h : arity st ≠ .other) : st ≠ 0#8 := by
  rintro rfl
  exact h rfl

section
variable {s : State}

theorem carryOver_unestablished (b : Byte) (h : s.rs = 0#8) : carryOver b s = short s.rs s.i s := if_pos h

theorem carryOver_two (b : Byte) (ha : arity s.rs = .two) (hl : s.i + 1 < s.len) :
    carryOver b s = twoData s.rs b (s.buf.read (s.i + 1)) s.i s.phase s := by
  have hz : s.rs ≠ 0#8 := ne_zero_of_arity (by simp [ha])
  simp only [carryOver, if_neg hz, ha, twoDataDispatch_available b s hl, emit, dataOk, isHigh]
  rfl

theorem carryOver_two_short (b : Byte) (ha : arity s.rs = .two) (hl : s.len ≤ s.i + 1) :
    carryOver b s = short s.rs s.i s := by
  have hz : s.rs ≠ 0#8 := ne_zero_of_arity (by simp [ha])
  simp only [carryOver, if_neg hz, ha, twoDataDispatch_short b s hl]
  rfl

theorem carryOver_one (b : Byte) (ha : arity s.rs = .one) (hl : s.i < s.len) :
    carryOver b s = oneData s.rs b s.i s.phase s := by
  have hz : s.rs ≠ 0#8 := ne_zero_of_arity (by simp [ha])
  simp only [carryOver, if_neg hz, ha, oneDataDispatch_available b s hl, emit, dataOk, isHigh]
  rfl

theorem carryOver_one_short (b : Byte) (ha : arity s.rs = .one) (hl : s.len ≤ s.i) :
    carryOver b s = short s.rs s.i s := by
  have hz : s.rs ≠ 0#8 := ne_zero_of_arity (by simp [ha])
  simp only [carryOver, if_neg hz, ha, oneDataDispatch_short b s hl]
  rfl

theorem carryOver_zero (b : Byte) (ha : arity s.rs = .zero) : carryOver b s = zeroData s.rs s.i s.phase s := by
  have hz : s.rs ≠ 0#8 := ne_zero_of_arity (by simp [ha])
  simp only [carryOver, if_neg hz, ha, zeroDataDispatch, emit, dataOk]
  rfl

theorem carryOver_other (b : Byte) (hz : s.rs ≠ 0#8) (ha : arity s.rs = .other) :
    carryOver b s = skipped s.rs (s.i + 1) s := by
  simp only [carryOver, if_neg hz, ha]
  rfl

end

/-- The outcome of RUN and of every status message (R111, R112). -/
theorem exec_run (d : Byte) (s : State) : exec (.run d) s = .next (carryOver d s) := rfl

theorem exec_status {i : Instr} {st : Byte} (hp : positionOf i = .lookAhead) (he : encode i = [st]) (s : State) :
    exec i s = .next (carryOver (s.buf.read (s.i + 1)) (loadStatus st s)) := by
  obtain ⟨b, hb, hdec⟩ := statusByte_of_lookAhead hp
  obtain rfl : b = st := by simpa [he] using hb.symm
  exact exec_decodeStatus hdec s

/-- An instruction that delivers an event, and what its consumer's return makes of the state. -/
theorem emitsThenResumes_intro {i : Instr} {s t u : State} (he : exec i s = .next t) (hi : t.inputs = s.inputs)
    (hc : t.inCallback = true) (hr : consumerReturns t = u) : emitsThenResumes i s t u :=
  ⟨he, fun hs => hr ▸ step_callback (hi.trans hs) hc⟩

section
variable {i : Instr} {st : Byte} (hp : positionOf i = .lookAhead) (he : encode i = [st])
include hp he

theorem exec_twoData (ha : arity st = .two) {s : State} (hl : s.i + 2 < s.len) :
    let within := twoData st (s.buf.read (s.i + 1)) (s.buf.read (s.i + 2)) (s.i + 1) .lookAhead s
    emitsThenResumes i s within (resumed (s.i + 3) .iterStart within) :=
  emitsThenResumes_intro ((exec_status hp he s).trans (congrArg _ (carryOver_two _ ha hl))) rfl rfl
    (consumerReturns_two _ ha)

theorem exec_twoData_short (ha : arity st = .two) {s : State} (hl : s.len ≤ s.i + 2) :
    exec i s = .next (short st (s.i + 1) s) :=
  (exec_status hp he s).trans (congrArg _ (carryOver_two_short _ ha hl))

theorem exec_oneData (ha : arity st = .one) {s : State} (hl : s.i + 1 < s.len) :
    let within := oneData st (s.buf.read (s.i + 1)) (s.i + 1) .lookAhead s
    emitsThenResumes i s within (resumed (s.i + 2) .iterStart within) :=
  emitsThenResumes_intro ((exec_status hp he s).trans (congrArg _ (carryOver_one _ ha hl))) rfl rfl
    (consumerReturns_one _ ha)

theorem exec_oneData_short (ha : arity st = .one) {s : State} (hl : s.len ≤ s.i + 1) :
    exec i s = .next (short st (s.i + 1) s) :=
  (exec_status hp he s).trans (congrArg _ (carryOver_one_short _ ha hl))

theorem exec_zeroData (ha : arity st = .zero) (s : State) :
    let within := zeroData st (s.i + 1) .lookAhead s
    emitsThenResumes i s within (resumed (s.i + 1) .iterStart within) :=
  emitsThenResumes_intro ((exec_status hp he s).trans (congrArg _ (carryOver_zero _ ha))) rfl rfl
    (consumerReturns_zero_moved _ ha (by simp))

theorem exec_otherStatus (hz : st ≠ 0#8) (ha : arity st = .other) (s : State) :
    exec i s = .next (skipped st (s.i + 2) s) :=
  (exec_status hp he s).trans (congrArg _ (carryOver_other _ hz ha))

end

/-- Settles O6: each of the six is a status message of arity 2. -/
theorem twoDataMessagesComplete : Obligations.TwoDataMessagesComplete := by
  intro ch s hl
  obtain ⟨h8, h9, hA, hB, hE⟩ := arity_twoChannel ch
  exact ⟨exec_twoData rfl rfl h8 hl, exec_twoData rfl rfl h9 hl, exec_twoData rfl rfl hA hl, exec_twoData rfl rfl hB hl,
    exec_twoData rfl rfl hE hl, exec_twoData rfl rfl rfl hl⟩

/-- Settles O7: each of the six is a status message of arity 2. -/
theorem twoDataMessagesDropWhenShort : Obligations.TwoDataMessagesDropWhenShort := by
  intro ch s hl
  obtain ⟨h8, h9, hA, hB, hE⟩ := arity_twoChannel ch
  exact ⟨exec_twoData_short rfl rfl h8 hl, exec_twoData_short rfl rfl h9 hl, exec_twoData_short rfl rfl hA hl,
    exec_twoData_short rfl rfl hB hl, exec_twoData_short rfl rfl hE hl, exec_twoData_short rfl rfl rfl hl⟩

/-- Settles O8: each of the four is a status message of arity 1. -/
theorem oneDataMessagesComplete : Obligations.OneDataMessagesComplete := by
  intro ch s hl
  obtain ⟨hC, hD⟩ := arity_oneChannel ch
  exact ⟨exec_oneData rfl rfl hC hl, exec_oneData rfl rfl hD hl, exec_oneData rfl rfl rfl hl, exec_oneData rfl rfl rfl hl⟩

/-- Settles O9: each of the four is a status message of arity 1. -/
theorem oneDataMessagesDropWhenShort : Obligations.OneDataMessagesDropWhenShort := by
  intro ch s hl
  obtain ⟨hC, hD⟩ := arity_oneChannel ch
  exact ⟨exec_oneData_short rfl rfl hC hl, exec_oneData_short rfl rfl hD hl, exec_oneData_short rfl rfl rfl hl,
    exec_oneData_short rfl rfl rfl hl⟩

/-- Settles O10: each of the seven is a status message of arity 0. -/
theorem zeroDataMessagesComplete : Obligations.ZeroDataMessagesComplete := fun s =>
  ⟨exec_zeroData rfl rfl rfl s, exec_zeroData rfl rfl rfl s, exec_zeroData rfl rfl rfl s, exec_zeroData rfl rfl rfl s,
    exec_zeroData rfl rfl rfl s, exec_zeroData rfl rfl rfl s, exec_zeroData rfl rfl rfl s⟩

/-- Settles O11: each of the six is a status message of no category. -/
theorem otherStatusMessagesSkipOneByte : Obligations.OtherStatusMessagesSkipOneByte := fun s =>
  ⟨exec_otherStatus rfl rfl (by decide) rfl s, exec_otherStatus rfl rfl (by decide) rfl s,
    exec_otherStatus rfl rfl (by decide) rfl s, exec_otherStatus rfl rfl (by decide) rfl s,
    exec_otherStatus rfl rfl (by decide) rfl s, exec_otherStatus rfl rfl (by decide) rfl s⟩

/-- Settles O17: RUN is steps 2 and 3, one form after the other. -/
theorem runningStatusMessageCompletes : Obligations.RunningStatusMessageCompletes := by
  intro d s
  refine ⟨fun hz => ?_, fun _ ha => ⟨fun hl => ?_, fun hl => ?_⟩, fun _ ha => ⟨fun hl => ?_, fun hl => ?_⟩,
    fun _ ha => ⟨fun hp => ?_, fun hp => ?_⟩, fun hz ha => ?_⟩
  · rw [exec_run, carryOver_unestablished d hz]
  · exact emitsThenResumes_intro (congrArg _ (carryOver_two d ha hl)) rfl rfl (consumerReturns_two _ ha)
  · rw [exec_run, carryOver_two_short d ha hl]
  · exact emitsThenResumes_intro (congrArg _ (carryOver_one d ha hl)) rfl rfl (consumerReturns_one _ ha)
  · rw [exec_run, carryOver_one_short d ha hl]
  · exact emitsThenResumes_intro (congrArg _ (carryOver_zero d ha)) rfl rfl (consumerReturns_zero_stalled _ ha hp)
  · exact emitsThenResumes_intro (congrArg _ (carryOver_zero d ha)) rfl rfl (consumerReturns_zero_moved _ ha hp)
  · rw [exec_run, carryOver_other d hz ha]

/-- Settles O27: the step is steps 2 and 3 at the end of the frame, where no data byte is left. -/
theorem timestampByteAtTheEnd : Obligations.TimestampByteAtTheEnd := by
  intro s h hp hi
  rw [step_lookAhead_atEnd h hp hi.ge]
  refine ⟨?_, fun _ ha => ?_, fun hz ha => ?_⟩
  · rintro (hz | ha | ha)
    · rw [carryOver_unestablished _ hz]
    · rw [carryOver_two_short _ ha (by omega)]
    · rw [carryOver_one_short _ ha hi.ge]
  · rw [carryOver_zero _ ha, hp]
  · rw [carryOver_other _ hz ha, hi]

end Sys2Proof.Machine
end

section
/-! PROOFS. The framing byte and the timestamp byte (40_decoder_walk.md): what they write, the two parts of the timestamp, and
what they leave. -/
namespace Sys2Proof.Machine

open Sys2Proof.Expect

theorem exec_frame (mark : BitVec 2) (th : StampHigh) (s : State) :
    exec (.frame mark th) s = .next (framingByte th s) := rfl

/-- The seed of the accumulator as a product (R104). -/
theorem stampSeed (th : StampHigh) : (th.setWidth 16 <<< 7 : Stamp) = BitVec.ofNat 16 (th.toNat * 128) := by
  apply BitVec.eq_of_toNat_eq
  have := th.isLt
  simp only [BitVec.toNat_shiftLeft, BitVec.toNat_setWidth, Nat.shiftLeft_eq, BitVec.toNat_ofNat]
  omega

/-- Settles O13: the framing byte with the seed as a product. -/
theorem framingByteInitialisesInvocation : Obligations.FramingByteInitialisesInvocation := by
  intro mark th s
  rw [exec_frame, framingByte, stampSeed]

/-- The accumulator after a framing byte whose low six bits are `th`, whatever the two leading bits are (R84, R104). -/
theorem exec_framingByte_seed (s : State) {b : Byte} {th : StampHigh} (h : b.extractLsb' 0 6 = th) :
    ∃ t, exec (decodeFraming b) s = .next t ∧ t.tsHigh = BitVec.ofNat 16 (th.toNat * 128) :=
  ⟨framingByte th s, by rw [decodeFraming, exec_frame, h], stampSeed th⟩

/-- Settles O12: the seed as a product, and the three corner values of the low six bits. -/
theorem framingByteSeedsAccumulator : Obligations.FramingByteSeedsAccumulator := by
  refine ⟨fun mark th s => ⟨_, exec_frame mark th s, stampSeed th, rfl, rfl, rfl, rfl⟩, fun s b hb => ?_, fun s b hb => ?_,
    fun s => ?_⟩
  · have low : ∀ b ∈ [0x00#8, 0x40#8, 0x80#8, 0xC0#8], b.extractLsb' 0 6 = 0#6 := by decide
    exact exec_framingByte_seed s (low b hb)
  · have low : ∀ b ∈ [0x3F#8, 0x7F#8, 0xBF#8, 0xFF#8], b.extractLsb' 0 6 = 63#6 := by decide
    exact exec_framingByte_seed s (low b hb)
  · exact exec_framingByte_seed s (th := 1#6) (by decide)

/-- The wrap-around test on numbers (R107, D4). -/
theorem nextTsHigh_eq (s : State) (low : StampLow) :
    nextTsHigh s low =
      if s.tsLowSeen = true ∧ low.toNat ≤ s.tsLowPrev.toNat then s.tsHigh + 128#16 else s.tsHigh := by
  simp [nextTsHigh, wraps, Config.lowCycle, BitVec.le_def]

/-- Settles O14: the timestamp byte with the wrap-around test on numbers. -/
theorem timestampByteReconstructs : Obligations.TimestampByteReconstructs := by
  intro low s
  rw [exec_ts, timestampByte, nextTsHigh_eq, ← BitVec.ofNat_toNat]

/-- The accumulator stays a multiple of one low-counter cycle (R22). -/
theorem nextTsHigh_multiple {s : State} (low : StampLow) (h : s.tsHigh.toNat % 128 = 0) :
    (nextTsHigh s low).toNat % 128 = 0 := by
  rw [nextTsHigh_eq]
  split
  · rw [BitVec.toNat_add, BitVec.toNat_ofNat]
    omega
  · exact h

/-- A sum of a multiple of 128 and a seven-bit value keeps the two apart (R109). -/
theorem stamp_parts {high : Stamp} (low : StampLow) (h : high.toNat % 128 = 0) :
    (high + low.setWidth 16).extractLsb' 0 7 = low ∧
      (high + low.setWidth 16).extractLsb' 7 9 = high.extractLsb' 7 9 := by
  have hl := low.isLt
  have hh := high.isLt
  constructor <;> apply BitVec.eq_of_toNat_eq <;>
    simp only [BitVec.extractLsb'_toNat, BitVec.toNat_add, BitVec.toNat_setWidth, Nat.shiftRight_eq_div_pow] <;> omega

/-- Settles O16: the timestamp is the sum of the new accumulator and the timestamp-low. -/
theorem timestampKeepsItsTwoParts : Obligations.TimestampKeepsItsTwoParts := by
  rintro low s t h ⟨⟩
  have hm := nextTsHigh_multiple low h
  obtain ⟨hlow, hhigh⟩ := stamp_parts low hm
  exact ⟨hlow, hhigh, hm⟩

/-- Settles O23: no memory, port or status register is written by either. -/
theorem framingAndTimestampFrame : Obligations.FramingAndTimestampFrame := by
  refine ⟨?_, ?_⟩
  · rintro mark th s t ⟨⟩
    simp [sameMemory, samePorts]
  · rintro low s t ⟨⟩
    simp [sameMemory, samePorts]

/-- Settles O18: RUN is steps 2 and 3, which leave `rs`, and so does the timestamp byte. -/
theorem runningStatusCarriesOver : Obligations.RunningStatusCarriesOver := by
  refine ⟨?_, ?_, endInvocation_rs⟩
  · rintro d s t ⟨⟩
    exact carryOver_keeps.1
  · rintro low s t ⟨⟩
    rfl

end Sys2Proof.Machine
end

section
/-! PROOFS. SEND (45_encoder.md): its two outcomes, and what it leaves unchanged. -/
namespace Sys2Proof.Machine

open Sys2Proof.Expect

/-- Settles O20: each outcome of the connection lookup. -/
theorem sendResultIsTheConnection : Obligations.SendResultIsTheConnection := by
  refine fun command d1 d2 s => ⟨fun h => exec_send_none command d1 d2 s (connLookup_none h), fun c h hn => ?_⟩
  refine ⟨_, _, exec_send_some command d1 d2 s (connLookup_some h hn), ?_, List.append_assoc ..⟩
  simp [Memory.bytes, Config.txLen]

/-- Settles O19: with a connection the filled buffer is submitted whole. -/
theorem sendSerialisesFiveBytes : Obligations.SendSerialisesFiveBytes := by
  intro command d1 d2 c s hwf h hn
  refine ⟨_, exec_send_some command d1 d2 s (connLookup_some h hn), ?_⟩
  have hread := reads_serializedFrame command d1 d2 hwf
  simp only [List.cons.injEq] at hread
  obtain ⟨h0, h1, h2, h3, h4, -⟩ := hread
  exact ⟨h0, h1, h2, h3, h4, submitted_outputs command d1 d2 c hwf⟩

/-- SEND changes nothing but the outbound buffer and the outputs (R44, R63). -/
theorem exec_send_keeps {c d e : Byte} {s t : State} (h : exec (.send c d e) s = .next t) :
    t = { s with tx := t.tx, outputs := t.outputs } := by
  obtain ⟨-, rfl⟩ | ⟨k, -, rfl⟩ := exec_send_cases h <;> rfl

/-- What SEND adds to the outputs is no event. -/
theorem exec_send_outputs {c d e : Byte} {s t : State} (h : exec (.send c d e) s = .next t) :
    ∃ new, t.outputs = s.outputs ++ new ∧ ∀ o ∈ new, isEvent o = false := by
  obtain ⟨-, rfl⟩ | ⟨k, -, rfl⟩ := exec_send_cases h
  · exact ⟨[.sendResult false], rfl, by simp⟩
  · exact ⟨_, List.append_assoc .., by simp⟩

/-- A lookup that answers a connection found one that is not the sentinel (R188). -/
theorem conn_of_connLookup {s : State} {k : Nat} (h : connLookup s = some k) :
    s.conn = some k ∧ s.params.connNone ≠ some k := by
  unfold connLookup at h
  split at h
  · cases h
  · rename_i c hc
    split at h
    · cases h
    · cases h
      exact ⟨hc, ‹_›⟩

/-- The bytes of the outbound buffer that SEND leaves. -/
theorem exec_send_tx {c d e : Byte} {s t : State} (hwf : s.tx.wf) (h : exec (.send c d e) s = .next t) :
    (∀ a, 5 ≤ a → t.tx.read a = s.tx.read a) ∧
      (s.conn = none ∨ s.conn = s.params.connNone → ∀ a, t.tx.read a = s.tx.read a) := by
  obtain ⟨-, rfl⟩ | ⟨k, hk, rfl⟩ := exec_send_cases h
  · exact ⟨fun a _ => rfl, fun _ a => rfl⟩
  · obtain ⟨hconn, hnone⟩ := conn_of_connLookup hk
    refine ⟨fun a ha => ?_, fun hno => ?_⟩
    · refine (read_serializedFrame c d e hwf a).trans ?_
      simp [show a ≠ 0 ∧ a ≠ 1 ∧ a ≠ 2 ∧ a ≠ 3 ∧ a ≠ 4 by omega]
    · rcases hno with hno | hno
      · simp [hconn] at hno
      · exact absurd (hno ▸ hconn) hnone

/-- Settles O24: SEND changes the outbound buffer and the outputs only. -/
theorem sendFrame : Obligations.SendFrame := by
  intro command d1 d2 s t hwf h
  obtain ⟨hlater, hnone⟩ := exec_send_tx hwf h
  have hkeeps := exec_send_keeps h
  generalize t.tx = tx, t.outputs = out at *
  subst hkeeps
  exact ⟨rfl, rfl, rfl, rfl, ⟨rfl, rfl, rfl, rfl⟩, ⟨rfl, rfl, rfl, rfl, rfl, rfl⟩, rfl, rfl, rfl, rfl, fun _ => rfl,
    hlater, hnone⟩

end Sys2Proof.Machine
end

section
/-! PROOFS. The frames of the messages, and that a SEND before one does not disturb it: all of them are steps 2 and 3, on the
state itself or on the one the status tracker leaves. -/
namespace Sys2Proof.Machine

open Sys2Proof.Expect

/-- Steps 2 and 3 write `d2` under arity 2 only, `d1` under arity 2 and 1 only, and present an event only under a status with
an arity. -/
theorem carryOver_d2 (b : Byte) (s : State) (h : arity s.rs ≠ .two) : (carryOver b s).d2 = s.d2 := by
  rcases carryOver_cases b s with ⟨e, _⟩ | ⟨_, ha, _, _⟩ | ⟨_, _, _, e⟩ | ⟨_, _, e⟩ | ⟨_, _, e⟩
  case inr.inl => exact absurd ha h
  all_goals rw [e]; rfl

theorem carryOver_d1 (b : Byte) (s : State) (h : arity s.rs = .zero ∨ arity s.rs = .other) :
    (carryOver b s).d1 = s.d1 := by
  rcases carryOver_cases b s with ⟨e, _⟩ | ⟨_, ha, _, _⟩ | ⟨_, ha, _, _⟩ | ⟨_, _, e⟩ | ⟨_, _, e⟩
  case inr.inl | inr.inr.inl => simp [ha] at h
  all_goals rw [e]; rfl

theorem carryOver_silent (b : Byte) (s : State) (h : arity s.rs = .other ∨ s.rs = 0#8) :
    (carryOver b s).outputs = s.outputs ∧ (carryOver b s).inCallback = s.inCallback := by
  have ha : arity s.rs = .other := h.elim id fun hz => by rw [hz]; rfl
  rcases carryOver_cases b s with ⟨e, _⟩ | ⟨_, ha', _, _⟩ | ⟨_, ha', _, _⟩ | ⟨_, ha', _⟩ | ⟨_, _, e⟩
  case inr.inl | inr.inr.inl | inr.inr.inr.inl => simp [ha] at ha'
  all_goals rw [e]; exact ⟨rfl, rfl⟩

/-- What no message changes: both buffers, the ports, the timestamp registers, the busy bit. -/
theorem carryOver_frame (b : Byte) (s : State) :
    sameMemory s (carryOver b s) ∧ samePorts s (carryOver b s) ∧ sameStamps s (carryOver b s) ∧
      (carryOver b s).decBusy = s.decBusy ∧ (carryOver b s).rs = s.rs := by
  rw [carryOver_keepsWalk b s]
  simp [sameMemory, samePorts, sameStamps]

/-- Settles O22: RUN is steps 2 and 3. -/
theorem runFrame : Obligations.RunFrame := by
  rintro d s t ⟨⟩
  obtain ⟨hmem, hports, hstamps, hbusy, hrs⟩ := carryOver_frame d s
  exact ⟨hmem, hports, hstamps, hbusy, hrs, carryOver_d2 d s, carryOver_d1 d s, carryOver_silent d s⟩

/-- Settles O21: a status message is the tracker, which writes `rs`, cursor and phase, followed by steps 2 and 3. -/
theorem statusMessageFrame : Obligations.StatusMessageFrame := by
  intro i s t hp h
  obtain ⟨st, he, hdec⟩ := statusByte_of_lookAhead hp
  rw [exec_decodeStatus hdec] at h
  cases h
  obtain ⟨hmem, hports, hstamps, hbusy, hrs⟩ := carryOver_frame (s.buf.read (s.i + 1)) (loadStatus st s)
  rw [hrs]
  exact ⟨hmem, hports, hstamps, hbusy, he, carryOver_d2 _ (loadStatus st s), carryOver_d1 _ (loadStatus st s),
    fun ha => carryOver_silent _ (loadStatus st s) (.inl ha)⟩

/-- The state with another outbound buffer and other outputs: what a SEND leaves (R63). -/
def withPort (tx : Memory) (out : List Output) (s : State) : State := { s with tx := tx, outputs := out }

theorem exec_send_withPort {c d e : Byte} {s t : State} (h : exec (.send c d e) s = .next t) :
    t = withPort t.tx t.outputs s := exec_send_keeps h

/-- Steps 2 and 3 neither read nor write the outbound buffer, and add the same to the outputs whatever stands there. -/
theorem carryOver_withPort (b : Byte) (s : State) (tx : Memory) (out : List Output) :
    ∃ new, (carryOver b s).outputs = s.outputs ++ new ∧
      carryOver b (withPort tx out s) = withPort tx (out ++ new) (carryOver b s) := by
  rcases carryOver_cases b s with ⟨_, hz | ⟨ha, hl⟩ | ⟨ha, hl⟩⟩ | ⟨_, ha, hl, _⟩ | ⟨_, ha, hl, _⟩ | ⟨_, ha, _⟩ | ⟨hz, ha, _⟩
  · rw [carryOver_unestablished b hz, carryOver_unestablished (s := withPort tx out s) b hz]
    exact ⟨[], by simp, by simp [withPort]⟩
  · rw [carryOver_two_short b ha hl, carryOver_two_short (s := withPort tx out s) b ha hl]
    exact ⟨[], by simp, by simp [withPort]⟩
  · rw [carryOver_one_short b ha hl, carryOver_one_short (s := withPort tx out s) b ha hl]
    exact ⟨[], by simp, by simp [withPort]⟩
  · rw [carryOver_two b ha hl, carryOver_two (s := withPort tx out s) b ha hl]
    exact ⟨_, rfl, rfl⟩
  · rw [carryOver_one b ha hl, carryOver_one (s := withPort tx out s) b ha hl]
    exact ⟨_, rfl, rfl⟩
  · rw [carryOver_zero b ha, carryOver_zero (s := withPort tx out s) b ha]
    exact ⟨_, rfl, rfl⟩
  · rw [carryOver_other b hz ha, carryOver_other (s := withPort tx out s) b hz ha]
    exact ⟨[], by simp, by simp [withPort]⟩

theorem exec_status_withPort {i : Instr} (hp : positionOf i = .lookAhead) (s : State) (tx : Memory) (out : List Output) :
    ∃ t new, exec i s = .next t ∧ t.outputs = s.outputs ++ new ∧
      exec i (withPort tx out s) = .next (withPort tx (out ++ new) t) := by
  obtain ⟨st, -, hdec⟩ := statusByte_of_lookAhead hp
  obtain ⟨new, ho, he⟩ := carryOver_withPort (s.buf.read (s.i + 1)) (loadStatus st s) tx out
  exact ⟨_, new, exec_decodeStatus hdec s, ho, (exec_decodeStatus hdec _).trans (congrArg _ he)⟩

/-- So it is with every instruction of the walk. -/
theorem exec_withPort {i : Instr} (hp : positionOf i ≠ .outbound) (s : State) (tx : Memory) (out : List Output) :
    ∃ t new, exec i s = .next t ∧ t.outputs = s.outputs ++ new ∧
      exec i (withPort tx out s) = .next (withPort tx (out ++ new) t) := by
  cases i with
  | frame mark th => exact ⟨_, [], exec_frame mark th s, by simp, by rw [List.append_nil]; rfl⟩
  | ts low => exact ⟨_, [], exec_ts low s, by simp, by rw [List.append_nil]; rfl⟩
  | run d =>
    obtain ⟨new, ho, he⟩ := carryOver_withPort d s tx out
    exact ⟨_, new, exec_run d s, ho, congrArg _ he⟩
  | send c d e => exact absurd rfl hp
  | _ => exact exec_status_withPort rfl s tx out

/-- Settles O39: SEND leaves the state with another port, and the instruction runs there as it did. -/
theorem sendDoesNotDisturbTheWalk : Obligations.SendDoesNotDisturbTheWalk := by
  intro command d1 d2 i s s' t hp hsend h
  obtain ⟨t', new, ht, ho, he⟩ := exec_withPort hp s s'.tx s'.outputs
  obtain rfl : t' = t := Host.Outcome.next.inj (ht.symm.trans h)
  rw [← exec_send_withPort hsend] at he
  exact ⟨new, ho, he⟩

end Sys2Proof.Machine
end

section
/-! PROOFS. The host's requests (46_host_interface.md, 70_reset_and_hazards.md): every answer of each port with its guard. -/
namespace Sys2Proof.Machine

open Sys2Proof.Expect

/-- The state that an accepted RESET leaves (R230; its free values are log 8). -/
def afterReset (s : State) : State :=
  { unspecifiedRegisters (Config.unspecified s.freeCount) s with rs := 0x00#8, consReg := false, decBusy := false }

/-- The state in which an accepted DECODE has been taken (R123). -/
def afterDecode (bytes : List Byte) (len : Nat) (s : State) : State :=
  { s with
    decBusy := true
    buf     := Memory.ofBytes (bytes.take len)
    len     := len
    phase   := if entryChecks len s then .framing else .walkEnded }

theorem requestReset_cases (s : State) :
    (s.decBusy = false ∧ requestReset s = .next (afterReset s)) ∨
    (s.decBusy = true ∧ requestReset s = .refused .resetWhileBusy) := by
  unfold requestReset
  cases s.decBusy with
  | true => exact .inr ⟨rfl, rfl⟩
  | false => exact .inl ⟨rfl, rfl⟩

theorem requestRegister_cases (target : Nat) (s : State) :
    (s.decBusy = false ∧ target < 2 ^ s.params.targetW ∧
      requestRegister target s = .next { s with consTarget := target, consReg := true }) ∨
    (s.decBusy = true ∧ requestRegister target s = .refused .registerWhileBusy) ∨
    (s.decBusy = false ∧ ¬ target < 2 ^ s.params.targetW ∧ requestRegister target s = .refused .targetTooWide) := by
  unfold requestRegister
  cases hb : s.decBusy with
  | true => exact .inr (.inl ⟨rfl, rfl⟩)
  | false =>
    by_cases hw : target < 2 ^ s.params.targetW
    · exact .inl ⟨rfl, hw, if_pos hw⟩
    · exact .inr (.inr ⟨rfl, hw, if_neg hw⟩)

theorem requestDecode_cases (bytes : List Byte) (len : Nat) (s : State) :
    (s.decBusy = false ∧ len ≤ s.params.lenMax ∧ len ≤ bytes.length ∧
      requestDecode bytes len s = .next (afterDecode bytes len s)) ∨
    (s.decBusy = true ∧ requestDecode bytes len s = .refused .decodeWhileBusy) ∨
    (s.decBusy = false ∧ s.params.lenMax < len ∧ requestDecode bytes len s = .refused .frameTooLong) ∨
    (s.decBusy = false ∧ len ≤ s.params.lenMax ∧ bytes.length < len ∧
      requestDecode bytes len s = .refused .frameNotReadable) := by
  unfold requestDecode
  cases hb : s.decBusy with
  | true => exact .inr (.inl ⟨rfl, rfl⟩)
  | false =>
    rcases Nat.lt_or_ge s.params.lenMax len with hm | hm
    · exact .inr (.inr (.inl ⟨rfl, hm, if_pos hm⟩))
    · rw [if_neg (by decide), if_neg (Nat.not_lt.2 hm)]
      rcases Nat.lt_or_ge bytes.length len with hl | hl
      · exact .inr (.inr (.inr ⟨rfl, hm, hl, if_pos hl⟩))
      · exact .inl ⟨rfl, hm, hl, if_neg (Nat.not_lt.2 hl)⟩

theorem transportConnection_cases (c : Option Nat) (s : State) :
    ((∀ k ∈ c, k < 2 ^ s.params.connW) ∧ transportConnection c s = .next { s with conn := c }) ∨
    (¬ (∀ k ∈ c, k < 2 ^ s.params.connW) ∧ transportConnection c s = .refused .connTooWide) := by
  cases c with
  | none => exact .inl ⟨by simp, rfl⟩
  | some k =>
    by_cases hk : k < 2 ^ s.params.connW
    · exact .inl ⟨by simpa using hk, if_pos hk⟩
    · exact .inr ⟨by simpa using hk, if_neg hk⟩

theorem transportBufferByte_cases (a : Nat) (b : Byte) (s : State) :
    ((s.decBusy = false ∨ s.len ≤ a ∨ b = s.buf.read a) ∧ transportBufferByte a b s = .next s) ∨
    (s.decBusy = true ∧ a < s.len ∧ b ≠ s.buf.read a ∧ transportBufferByte a b s = .refused .frameChanged) := by
  by_cases h : s.decBusy = true ∧ a < s.len ∧ b ≠ s.buf.read a
  · exact .inr ⟨h.1, h.2.1, h.2.2, if_pos (by simpa [and_assoc] using h)⟩
  · refine .inl ⟨?_, if_neg (by simpa [and_assoc] using h)⟩
    rw [← Bool.not_eq_true, ← Nat.not_lt]
    tauto

theorem transportBufferLength_cases (n : Nat) (s : State) :
    ((s.decBusy = false ∨ n = s.len) ∧ transportBufferLength n s = .next s) ∨
    (s.decBusy = true ∧ n ≠ s.len ∧ transportBufferLength n s = .refused .frameChanged) := by
  by_cases h : s.decBusy = true ∧ n ≠ s.len
  · exact .inr ⟨h.1, h.2, if_pos (by simpa using h)⟩
  · refine .inl ⟨?_, if_neg (by simpa using h)⟩
    rw [← Bool.not_eq_true]
    tauto

/-- Settles O29: the guards of REGISTER decide its answer. -/
theorem registerReplacesTarget : Obligations.RegisterReplacesTarget := by
  intro target rest s h
  rw [step_host h]
  rcases requestRegister_cases target { s with inputs := rest } with ⟨hb, _, e⟩ | ⟨hb, e⟩ | ⟨hb, hw, e⟩
  · exact ⟨fun _ _ => e, fun hb' => by simp [hb'] at hb⟩
  · exact ⟨fun hb' => by simp [hb'] at hb, fun _ => e⟩
  · exact ⟨fun _ hw' => absurd hw' hw, fun hb' => by simp [hb'] at hb⟩

/-- Settles O30: an idle codec takes the RESET, a busy one refuses it. -/
theorem resetRequestClears : Obligations.ResetRequestClears := by
  intro rest s h
  rw [step_host h]
  rcases requestReset_cases { s with inputs := rest } with ⟨hb, e⟩ | ⟨hb, e⟩
  · exact ⟨fun _ => ⟨_, e, rfl, rfl, rfl, rfl, rfl, rfl, rfl, rfl, rfl⟩, fun hb' => by simp [hb'] at hb⟩
  · exact ⟨fun hb' => by simp [hb'] at hb, fun _ => e⟩

/-- The frame at hand reads as the bytes that the transport provides below the length (R50). -/
theorem read_frame (bytes : List Byte) {len a : Nat} (h : a < len) :
    (Memory.ofBytes (bytes.take len)).read a = bytes.getD a 0#8 := by
  rw [Memory.read_ofBytes, List.getD_eq_getElem?_getD, List.getD_eq_getElem?_getD, List.getElem?_take_of_lt h]
  rfl

/-- Settles O31: the guards of DECODE decide its answer, and the accepted frame is a buffer filled from a list. -/
theorem decodeRequestEntryChecks : Obligations.DecodeRequestEntryChecks := by
  intro bytes n rest s h
  rw [step_host h]
  rcases requestDecode_cases bytes n { s with inputs := rest } with
    ⟨hb, _, hl, e⟩ | ⟨hb, e⟩ | ⟨hb, hm, e⟩ | ⟨hb, _, hl, e⟩
  · exact ⟨fun _ _ _ => ⟨_, e, Memory.ofBytes_wf _, fun a ha => read_frame bytes ha⟩, fun hb' => by simp [hb'] at hb,
      fun _ _ hl' => absurd hl (Nat.not_le.2 hl')⟩
  · exact ⟨fun hb' => by simp [hb'] at hb, fun _ => e, fun hb' => by simp [hb'] at hb⟩
  · exact ⟨fun _ hm' => absurd hm (Nat.not_lt.2 hm'), fun hb' => by simp [hb'] at hb,
      fun _ hm' => absurd hm (Nat.not_lt.2 hm')⟩
  · exact ⟨fun _ _ hl' => absurd hl (Nat.not_lt.2 hl'), fun hb' => by simp [hb'] at hb, fun _ _ _ => e⟩

end Sys2Proof.Machine
end

section
/-! PROOFS. What a step can be, said once for a step that answers a next state: a move of the codec or one accepted host action,
in the state with the action taken. -/
namespace Sys2Proof.Machine

open Sys2Proof.Expect

/-- The ways in which a step from `s` can answer a next state; `rest` is what is pending afterwards. -/
inductive Taken (s : State) : State → Prop
  | codec {rest : List Input} {t : State} (e : runMove (codecMove { s with inputs := rest }) = .next t) : Taken s t
  | send {rest : List Input} {c d e : Byte} {t : State} (h : exec (.send c d e) { s with inputs := rest } = .next t) :
      Taken s t
  | reset {rest : List Input} (h : taking s .reset rest) (hb : s.decBusy = false) :
      Taken s (afterReset { s with inputs := rest })
  | register {rest : List Input} {k : Nat} (h : taking s (.register k) rest) (hb : s.decBusy = false)
      (hk : k < 2 ^ s.params.targetW) : Taken s { s with inputs := rest, consTarget := k, consReg := true }
  | decode {rest : List Input} {bytes : List Byte} {n : Nat} (hb : s.decBusy = false) (hm : n ≤ s.params.lenMax)
      (hl : n ≤ bytes.length) : Taken s (afterDecode bytes n { s with inputs := rest })
  | connection {rest : List Input} {c : Option Nat} (h : taking s (.connection c) rest)
      (hc : ∀ k ∈ c, k < 2 ^ s.params.connW) : Taken s { s with inputs := rest, conn := c }
  | unseen {rest : List Input} : Taken s { s with inputs := rest }

theorem step_taken {s t : State} (h : step s = .next t) : Taken s t := by
  cases hi : s.inputs with
  | nil =>
    rw [step_quiet hi] at h
    exact .codec (rest := s.inputs) h
  | cons a rest =>
    rw [step_host hi] at h
    cases a with
    | turn => exact .codec h
    | send c d e => exact .send h
    | reset =>
      rcases requestReset_cases { s with inputs := rest } with ⟨hb, e⟩ | ⟨hb, e⟩ <;> cases e.symm.trans h
      exact .reset hi hb
    | register k =>
      rcases requestRegister_cases k { s with inputs := rest } with ⟨hb, hk, e⟩ | ⟨_, e⟩ | ⟨_, _, e⟩ <;>
        cases e.symm.trans h
      exact .register hi hb hk
    | decode bytes n =>
      rcases requestDecode_cases bytes n { s with inputs := rest } with
        ⟨hb, hm, hl, e⟩ | ⟨_, e⟩ | ⟨_, _, e⟩ | ⟨_, _, _, e⟩ <;> cases e.symm.trans h
      exact .decode hb hm hl
    | connection c =>
      rcases transportConnection_cases c { s with inputs := rest } with ⟨hc, e⟩ | ⟨_, e⟩ <;> cases e.symm.trans h
      exact .connection hi hc
    | bufferByte a b =>
      rcases transportBufferByte_cases a b { s with inputs := rest } with ⟨_, e⟩ | ⟨_, _, _, e⟩ <;> cases e.symm.trans h
      exact .unseen
    | bufferLength n =>
      rcases transportBufferLength_cases n { s with inputs := rest } with ⟨_, e⟩ | ⟨_, _, e⟩ <;> cases e.symm.trans h
      exact .unseen

/-- No move of the codec writes the ports, the parameters or what is pending, and only the end of an invocation releases the
frame. -/
theorem codecMove_frame {s t : State} (e : runMove (codecMove s) = .next t) :
    samePorts s t ∧
      (t.decBusy = s.decBusy ∧ t.buf = s.buf ∧ t.len = s.len ∨ s.decBusy = true ∧ t.decBusy = false ∧ t.rs = 0#8) := by
  have step23 (b : Byte) (u : State) : samePorts u (carryOver b u) ∧ (carryOver b u).decBusy = u.decBusy ∧
      (carryOver b u).buf = u.buf ∧ (carryOver b u).len = u.len := by
    rw [carryOver_keepsWalk b u]
    simp [samePorts]
  rcases codecMove_inversion e with rfl | rfl | ⟨th, rfl⟩ | ⟨l, rfl⟩ | ⟨b, rfl⟩ | ⟨_, _, _, b, rfl⟩ | ⟨hb, rfl⟩
  · simp [samePorts]
  · simp [samePorts]
  · simp [samePorts]
  · simp [samePorts]
  · exact ⟨(step23 b s).1, .inl (step23 b s).2⟩
  · exact ⟨(step23 b (loadStatus (s.buf.read s.i) s)).1, .inl (step23 b (loadStatus (s.buf.read s.i) s)).2⟩
  · simp [samePorts, hb]

/-- The moves of the codec from a good state, by name: `running` and `carried` are messages under running status at the start of an
iteration and in the look-ahead, `bare` an iteration that ended with its timestamp byte (R208). -/
inductive Moved (s : State) : State → Prop
  | returns (hc : s.inCallback = true) : Moved s (consumerReturns s)
  | waits (hb : s.decBusy = false) : Moved s s
  | framing (hc : s.inCallback = false) (hb : s.decBusy = true) (hp : s.phase = .framing) (hl : 3 ≤ s.len) :
      Moved s (framingByte ((s.buf.read 0).extractLsb' 0 6) s)
  | stamp (hc : s.inCallback = false) (hb : s.decBusy = true) (hp : s.phase = .iterStart) (hl : s.i < s.len)
      (hm : (s.buf.read s.i).msb = true) : Moved s (timestampByte ((s.buf.read s.i).extractLsb' 0 7) s)
  | running (hc : s.inCallback = false) (hb : s.decBusy = true) (hp : s.phase = .iterStart) (hl : s.i < s.len)
      (hm : (s.buf.read s.i).msb = false) : Moved s (carryOver (s.buf.read s.i) s)
  | status (hc : s.inCallback = false) (hb : s.decBusy = true) (hp : s.phase = .lookAhead) (hl : s.i < s.len)
      (hm : (s.buf.read s.i).msb = true) :
      Moved s (carryOver (s.buf.read (s.i + 1)) (loadStatus (s.buf.read s.i) s))
  | carried (hc : s.inCallback = false) (hb : s.decBusy = true) (hp : s.phase = .lookAhead) (hl : s.i < s.len)
      (hm : (s.buf.read s.i).msb = false) : Moved s (carryOver (s.buf.read s.i) s)
  | bare (hc : s.inCallback = false) (hb : s.decBusy = true) (hp : s.phase = .lookAhead) (hl : s.len ≤ s.i) :
      Moved s (carryOver Memory.unlisted s)
  | ends (hc : s.inCallback = false) (hb : s.decBusy = true)
      (hp : s.phase = .walkEnded ∨ s.phase = .iterStart ∧ s.len ≤ s.i) : Moved s (endInvocation s)

/-- A move of the codec from a good state always answers a next state, which one of the names describes. -/
theorem codecMove_answers {s : State} (h : s.Inv) : ∃ t, runMove (codecMove s) = .next t ∧ Moved s t := by
  rcases codecMove_cases h with ⟨hc, e⟩ | ⟨_, hb, e⟩ | ⟨hc, hb, hmove⟩
  · exact ⟨_, e, .returns hc⟩
  · exact ⟨_, e, .waits hb⟩
  · rcases hmove with ⟨hp, hl, e⟩ | ⟨hp, hl, hm, e⟩ | ⟨hp, hl, hm, e⟩ | ⟨hp, hl, hm, e⟩ | ⟨hp, hl, hm, e⟩ | ⟨hp, hl, e⟩ | ⟨hp, e⟩
    · exact ⟨_, e, .framing hc hb hp hl⟩
    · exact ⟨_, e, .stamp hc hb hp hl hm⟩
    · exact ⟨_, e, .running hc hb hp hl hm⟩
    · exact ⟨_, e, .status hc hb hp hl hm⟩
    · exact ⟨_, e, .carried hc hb hp hl hm⟩
    · exact ⟨_, e, .bare hc hb hp hl⟩
    · exact ⟨_, e, .ends hc hb hp⟩

theorem codecMove_moved {s t : State} (h : s.Inv) (e : runMove (codecMove s) = .next t) : Moved s t := by
  obtain ⟨u, e', hmoved⟩ := codecMove_answers h
  cases e'.symm.trans e
  exact hmoved

end Sys2Proof.Machine
end

section
/-! PROOFS. The invariant: it holds after reset and every step keeps it; no step from a good state faults, and one is refused
exactly when a duty is broken (60_exceptions.md, 70_reset_and_hazards.md). -/
namespace Sys2Proof.Machine

open Sys2Proof.Expect

/-- The spec's constraints on the OPEN parameters hold of the opaque ones: each constant is cut to its width. -/
theorem params_wf : Config.params.wf := by
  refine ⟨Nat.le_add_left .., Nat.le_add_left .., Nat.le_add_left .., fun c hc => ?_, Nat.mod_lt _ (Nat.two_pow_pos _)⟩
  obtain ⟨r, -, rfl⟩ := Option.map_eq_some_iff.1 hc
  exact Nat.mod_lt _ (Nat.two_pow_pos _)

/-- Settles O33: the reset state is idle, with empty buffers and no outputs. -/
theorem resetMeetsInvariant : Obligations.ResetMeetsInvariant where
  params := params_wf
  bufWf := Memory.wf_nil
  bufInFrame := by simp [State.reset]
  txWf := Memory.wf_nil
  txInFrame := by simp [State.reset]
  lenMax := Nat.zero_le _
  cursorMax := Nat.zero_le _
  targetWidth := Nat.two_pow_pos _
  connWidth := by simp [State.reset]
  rs := .inl rfl
  idle := fun _ => ⟨rfl, rfl, rfl, rfl⟩
  framing := by simp [State.reset]
  walkChecked := by simp [inWalk, State.reset]
  walkCursor := by simp [inWalk, State.reset]
  walkHigh := by simp [inWalk, State.reset]
  walkSeen := by simp [inWalk, State.reset]
  walkStamp := by simp [inWalk, State.reset]
  look := by simp [State.reset]
  holding := by simp [State.reset]
  events := by simp [eventsLegal, State.reset]

theorem not_inWalk {s : State} (h : s.phase = .walkEnded) : ¬ inWalk s := by simp [inWalk, h]

theorem inv_afterReset {s : State} (h : s.Inv) (hb : s.decBusy = false) : (afterReset s).Inv := by
  obtain ⟨-, hp, hc, hl⟩ := h.idle hb
  have hw : ¬ inWalk (afterReset s) := not_inWalk hp
  exact { h with
    txWf := Memory.ofBytes_wf _
    txInFrame := fun _ hm => Memory.ofBytes_bound hm
    cursorMax := Nat.le_of_lt_succ (Nat.mod_lt _ (Nat.succ_pos _))
    targetWidth := Nat.mod_lt _ (Nat.two_pow_pos _)
    rs := .inl rfl
    idle := fun _ => ⟨rfl, hp, hc, hl⟩
    framing := fun hf => by cases hp.symm.trans hf
    walkChecked := fun hi => absurd hi hw
    walkCursor := fun hi => absurd hi hw
    walkHigh := fun hi => absurd hi hw
    walkSeen := fun hi => absurd hi hw
    walkStamp := fun hi => absurd hi hw
    look := fun hi => absurd (.inr hi) hw
    holding := fun hh => by cases hc.symm.trans hh }

theorem inv_register {s : State} (h : s.Inv) {k : Nat} (hk : k < 2 ^ s.params.targetW) :
    State.Inv { s with consTarget := k, consReg := true } :=
  { h with
    targetWidth := hk
    framing := fun hp => ⟨(h.framing hp).1, rfl, (h.framing hp).2.2⟩
    walkChecked := fun hw => ⟨(h.walkChecked hw).1, rfl⟩ }

theorem inv_connection {s : State} (h : s.Inv) {c : Option Nat} (hc : ∀ k ∈ c, k < 2 ^ s.params.connW) :
    State.Inv { s with conn := c } := { h with connWidth := hc }

theorem inv_afterDecode {s : State} (h : s.Inv) (hb : s.decBusy = false) {bytes : List Byte} {n : Nat}
    (hm : n ≤ s.params.lenMax) (hl : n ≤ bytes.length) : (afterDecode bytes n s).Inv := by
  obtain ⟨hrs, -, hc, -⟩ := h.idle hb
  have hp : (afterDecode bytes n s).phase = if entryChecks n s then .framing else .walkEnded := rfl
  have hw : ¬ inWalk (afterDecode bytes n s) := by
    rw [inWalk, hp]
    split <;> simp
  exact { h with
    bufWf := Memory.ofBytes_wf _
    bufInFrame := fun c hcell => by
      have := Memory.ofBytes_bound hcell
      rwa [List.length_take_of_le hl] at this
    lenMax := hm
    idle := fun hn => by cases hn
    framing := fun hf => by
      rw [hp] at hf
      split at hf
      · rename_i hchecks
        exact ⟨hchecks.1, hchecks.2, hrs, hc⟩
      · cases hf
    walkChecked := fun hi => absurd hi hw
    walkCursor := fun hi => absurd hi hw
    walkHigh := fun hi => absurd hi hw
    walkSeen := fun hi => absurd hi hw
    walkStamp := fun hi => absurd hi hw
    look := fun hi => absurd (.inr hi) hw
    holding := fun hh => by cases hc.symm.trans hh }

theorem inv_send {s t : State} (h : s.Inv) {c d e : Byte} (hs : exec (.send c d e) s = .next t) : t.Inv := by
  obtain ⟨-, rfl⟩ | ⟨k, -, rfl⟩ := exec_send_cases hs
  · exact inv_sendResult h false
  · exact inv_sendResult (inv_submit (inv_serialize h c d e) k) true

theorem inv_codecMove {s t : State} (h : s.Inv) (e : runMove (codecMove s) = .next t) : t.Inv := by
  cases codecMove_moved h e with
  | returns hc => exact inv_consumerReturns h hc
  | waits _ => exact h
  | framing _ hb hp _ => exact inv_framingByte h hp hb _
  | stamp hc hb hp hl _ => exact inv_timestampByte h hp hb hc hl _
  | running hc hb hp hl _ => exact inv_carryOver (.ofIterStart h hb hp hc hl) _
  | status hc hb hp hl hm => exact inv_carryOver (.ofStatus h hb hp hc hl hm) _
  | carried hc hb hp _ _ | bare hc hb hp _ => exact inv_carryOver (.ofLookAhead h hb hp hc) _
  | ends hc _ _ => exact inv_endInvocation h hc

/-- Settles O34: whatever the step is, its operation keeps the invariant. -/
theorem stepKeepsInvariant : Obligations.StepKeepsInvariant := by
  intro s t h hstep
  cases step_taken hstep with
  | codec e => exact inv_codecMove (inv_withInputs h _) e
  | send e => exact inv_send (inv_withInputs h _) e
  | reset _ hb => exact inv_afterReset (inv_withInputs h _) hb
  | @register rest _ _ _ hk => exact inv_register (inv_withInputs h rest) hk
  | @decode rest _ _ hb hm hl => exact inv_afterDecode (inv_withInputs h rest) hb hm hl
  | @connection rest _ _ hc => exact inv_connection (inv_withInputs h rest) hc
  | unseen => exact inv_withInputs h _

/-- A host action is accepted when it keeps the duties, and refused when it does not. -/
theorem hostMove_answers {s : State} (h : s.Inv) (a : Input) :
    (keepsDuties a s = true ∧ ∃ t, runMove (hostMove a s) = .next t) ∨
      (keepsDuties a s = false ∧ ∃ r, runMove (hostMove a s) = .refused r) := by
  cases a with
  | turn =>
    obtain ⟨t, e, -⟩ := codecMove_answers h
    exact .inl ⟨rfl, t, e⟩
  | send c d e => exact .inl ⟨rfl, exec_total (.send c d e) s⟩
  | reset =>
    rcases requestReset_cases s with ⟨hb, e⟩ | ⟨hb, e⟩
    · exact .inl ⟨by simp [keepsDuties, hb], _, e⟩
    · exact .inr ⟨by simp [keepsDuties, hb], _, e⟩
  | register k =>
    rcases requestRegister_cases k s with ⟨hb, hk, e⟩ | ⟨hb, e⟩ | ⟨_, hk, e⟩
    · exact .inl ⟨by simp [keepsDuties, hb, hk], _, e⟩
    · exact .inr ⟨by simp [keepsDuties, hb], _, e⟩
    · exact .inr ⟨by simp [keepsDuties, hk], _, e⟩
  | decode bytes n =>
    rcases requestDecode_cases bytes n s with ⟨hb, hm, hl, e⟩ | ⟨hb, e⟩ | ⟨_, hm, e⟩ | ⟨_, _, hl, e⟩
    · exact .inl ⟨by simp [keepsDuties, hb, hm, hl], _, e⟩
    · exact .inr ⟨by simp [keepsDuties, hb], _, e⟩
    · exact .inr ⟨by simp [keepsDuties, Nat.not_le.2 hm], _, e⟩
    · exact .inr ⟨by simp [keepsDuties, Nat.not_le.2 hl], _, e⟩
  | connection c =>
    have hduty : keepsDuties (.connection c) s = true ↔ ∀ k ∈ c, k < 2 ^ s.params.connW := by
      cases c <;> simp [keepsDuties]
    rcases transportConnection_cases c s with ⟨hc, e⟩ | ⟨hc, e⟩
    · exact .inl ⟨hduty.2 hc, _, e⟩
    · exact .inr ⟨Bool.eq_false_iff.2 (mt hduty.1 hc), _, e⟩
  | bufferByte a b =>
    rcases transportBufferByte_cases a b s with ⟨hd, e⟩ | ⟨hb, ha, hne, e⟩
    · exact .inl ⟨by simpa [keepsDuties, or_assoc] using hd, _, e⟩
    · exact .inr ⟨by simp [keepsDuties, hb, ha, hne], _, e⟩
  | bufferLength n =>
    rcases transportBufferLength_cases n s with ⟨hd, e⟩ | ⟨hb, hne, e⟩
    · exact .inl ⟨by simpa [keepsDuties] using hd, _, e⟩
    · exact .inr ⟨by simp [keepsDuties, hb, hne], _, e⟩

/-- The duties of an action do not depend on what is pending after it. -/
theorem keepsDuties_withInputs (a : Input) (s : State) (rest : List Input) :
    keepsDuties a { s with inputs := rest } = keepsDuties a s := by
  cases a <;> rfl

/-- Settles O35: the codec's move always answers, and a host action answers or is refused by its duties. -/
theorem onlyBrokenDutiesStopTheCodec : Obligations.OnlyBrokenDutiesStopTheCodec := by
  intro s h
  have hquiet (hi : s.inputs = []) : ∃ t, step s = .next t := by
    obtain ⟨t, e, -⟩ := codecMove_answers h
    exact ⟨t, (step_quiet hi).trans e⟩
  have hhost {a : Input} {rest : List Input} (hi : taking s a rest) :
      (keepsDuties a s = true ∧ ∃ t, step s = .next t) ∨ (keepsDuties a s = false ∧ ∃ r, step s = .refused r) := by
    rw [step_host hi, ← keepsDuties_withInputs a s rest]
    exact hostMove_answers (inv_withInputs h rest) a
  refine ⟨fun f hf => ?_, hquiet, fun a rest hi hk => ?_, fun a rest hi hk => ?_⟩
  · cases hi : s.inputs with
    | nil =>
      obtain ⟨t, ht⟩ := hquiet hi
      cases ht.symm.trans hf
    | cons a rest =>
      rcases hhost hi with ⟨_, t, ht⟩ | ⟨_, r, hr⟩
      · cases ht.symm.trans hf
      · cases hr.symm.trans hf
  · rcases hhost hi with ⟨_, ht⟩ | ⟨hn, _⟩
    · exact ht
    · cases hn.symm.trans hk
  · rcases hhost hi with ⟨hn, _⟩ | ⟨_, hr⟩
    · cases hn.symm.trans hk
    · exact hr

end Sys2Proof.Machine
end

section
/-! PROOFS. Who writes what (60_exceptions.md): the frame during a DECODE, running status, the registration, the event port, and
the Decoder's registers while the consumer holds an event. -/
namespace Sys2Proof.Machine

open Sys2Proof.Expect

/-- During a DECODE no step writes the frame. -/
theorem step_keeps_frame {s t : State} (hstep : step s = .next t) (hb : s.decBusy = true) (hb' : t.decBusy = true) :
    t.len = s.len ∧ t.buf = s.buf := by
  cases step_taken hstep with
  | codec e =>
    rcases (codecMove_frame e).2 with ⟨_, hbuf, hlen⟩ | ⟨_, hn, _⟩
    · exact ⟨hlen, hbuf⟩
    · cases hn.symm.trans hb'
  | send e =>
    rw [exec_send_keeps e]
    exact ⟨rfl, rfl⟩
  | reset _ hn | register _ hn _ | decode hn _ _ => cases hn.symm.trans hb
  | connection _ _ | unseen => exact ⟨rfl, rfl⟩

/-- Settles O32: no step writes the frame of a DECODE, and each transport action by its guard. -/
theorem frameIsStableDuringDecode : Obligations.FrameIsStableDuringDecode := by
  refine ⟨fun s t _ hstep hb hb' => ?_, fun rest s => ⟨fun a b h hb => ?_, fun n h hb => ?_, fun c h hc => ?_⟩⟩
  · obtain ⟨hlen, hbuf⟩ := step_keeps_frame hstep hb hb'
    exact ⟨hlen, fun a => by rw [hbuf]⟩
  · rw [step_host h]
    rcases transportBufferByte_cases a b { s with inputs := rest } with ⟨hd, e⟩ | ⟨_, ha, hne, e⟩
    · refine ⟨fun ha hne => ?_, fun _ => e⟩
      rcases hd with hn | hl | he
      · cases hn.symm.trans hb
      · exact absurd ha (Nat.not_lt.2 hl)
      · exact absurd he hne
    · exact ⟨fun _ _ => e, fun hd => hd.elim (fun hl => absurd ha (Nat.not_lt.2 hl)) fun he => absurd he hne⟩
  · rw [step_host h]
    rcases transportBufferLength_cases n { s with inputs := rest } with ⟨hd, e⟩ | ⟨_, hne, e⟩
    · exact ⟨fun hne => hd.elim (fun hn => by cases hn.symm.trans hb) fun he => absurd he hne, fun _ => e⟩
    · exact ⟨fun _ => e, fun he => absurd he hne⟩
  · rw [step_host h]
    rcases transportConnection_cases c { s with inputs := rest } with ⟨_, e⟩ | ⟨hn, _⟩
    · exact e
    · exact absurd hc hn

/-- A move of the codec that changes `rs` is a status byte taken in the look-ahead, or the end of the invocation. -/
theorem codecMove_rs {s t : State} (e : runMove (codecMove s) = .next t) :
    t.rs = s.rs ∨ (s.phase = .lookAhead ∧ s.i < s.len ∧ t.rs = s.buf.read s.i ∧ t.rs.msb = true) ∨
      (t.rs = 0#8 ∧ s.decBusy = true ∧ t.decBusy = false) := by
  rcases codecMove_inversion e with rfl | rfl | ⟨th, rfl⟩ | ⟨l, rfl⟩ | ⟨b, rfl⟩ | ⟨hp, hl, hm, b, rfl⟩ | ⟨hb, rfl⟩
  · exact .inl (consumerReturns_rs s)
  · exact .inl rfl
  · exact .inl rfl
  · exact .inl rfl
  · exact .inl carryOver_keeps.1
  · have hrs : (carryOver b (loadStatus (s.buf.read s.i) s)).rs = s.buf.read s.i := carryOver_keeps.1
    exact .inr (.inl ⟨hp, hl, hrs, by rw [hrs]; exact hm⟩)
  · exact .inr (.inr ⟨rfl, hb, rfl⟩)

/-- Settles O36: of the host actions only RESET writes `rs`. -/
theorem runningStatusHasThreeWriters : Obligations.RunningStatusHasThreeWriters := by
  intro s t hstep hne
  cases step_taken hstep with
  | codec e =>
    rcases codecMove_rs e with hrs | hstatus | hend
    · exact absurd hrs hne
    · exact .inl hstatus
    · exact .inr (.inl hend)
  | send e =>
    rw [exec_send_keeps e] at hne
    exact absurd rfl hne
  | reset h _ => exact .inr (.inr ⟨rfl, _, h⟩)
  | register _ _ _ | decode _ _ _ | connection _ _ | unseen => exact absurd rfl hne

/-- Settles O37: no move of the codec and no SEND writes a port, and the host actions each write their own. -/
theorem ownershipOfPortState : Obligations.OwnershipOfPortState := by
  intro s t hstep
  cases step_taken hstep with
  | codec e =>
    obtain ⟨⟨hparams, hreg, htarget, hconn, _, _⟩, _⟩ := codecMove_frame e
    exact ⟨hparams, .inl ⟨hreg, htarget⟩, .inl hconn⟩
  | send e =>
    rw [exec_send_keeps e]
    exact ⟨rfl, .inl ⟨rfl, rfl⟩, .inl rfl⟩
  | reset h _ => exact ⟨rfl, .inr (.inr ⟨_, h⟩), .inl rfl⟩
  | register h _ _ => exact ⟨rfl, .inr (.inl ⟨_, _, h⟩), .inl rfl⟩
  | decode _ _ _ | unseen => exact ⟨rfl, .inl ⟨rfl, rfl⟩, .inl rfl⟩
  | connection h _ => exact ⟨rfl, .inl ⟨rfl, rfl⟩, .inr ⟨_, _, h, rfl⟩⟩

/-- What a step from `s` to `t` adds to the outputs: no event, or the one built from the registers of `t`. -/
inductive Presents (s t : State) : List Output → Prop
  | silent {new : List Output} (h : ∀ o ∈ new, isEvent o = false) : Presents s t new
  | event (hb : s.decBusy = true) (hreg : s.consReg = true) (hfree : s.inCallback = false) (hheld : t.inCallback = true)
      (hm : t.rs.msb = true) : Presents s t [.event s.consTarget (eventOf t) (dataOk (arity t.rs) t.d1 t.d2)]

/-- Of the state before the step only the registration, the busy bit and the call-out flag are asked. -/
theorem Presents.of_same {s u t : State} {new : List Output} (h : Presents u t new) (hb : u.decBusy = s.decBusy)
    (hreg : u.consReg = s.consReg) (ht : u.consTarget = s.consTarget) (hc : u.inCallback = s.inCallback) :
    Presents s t new := by
  cases h with
  | silent hs => exact .silent hs
  | event hb' hreg' hfree hheld hm =>
    rw [ht]
    exact .event (hb ▸ hb') (hreg ▸ hreg') (hc ▸ hfree) hheld hm

theorem countP_silent {new : List Output} (h : ∀ o ∈ new, isEvent o = false) : new.countP isEvent = 0 :=
  List.countP_eq_zero.2 fun o hm => by simp [h o hm]

theorem carryOver_presents {s : State} (h : Going s) (b : Byte) :
    ∃ new, (carryOver b s).outputs = s.outputs ++ new ∧ Presents s (carryOver b s) new := by
  have hreg := (h.inv.walkChecked h.walk).2
  have hdelivered {u : State} (hz : s.rs ≠ 0#8) (ho : u.outputs = s.outputs) (ht : u.consTarget = s.consTarget)
      (hrs : u.rs = s.rs) : ∃ new, (emit u).outputs = s.outputs ++ new ∧ Presents s (emit u) new :=
    ⟨_, by rw [emit_outputs, ho, ht]; rfl,
      .event h.busy hreg h.quiet rfl (by rw [emit_rs, hrs]; exact h.inv.rs.resolve_left hz)⟩
  rcases carryOver_cases b s with ⟨e, _⟩ | ⟨hz, _, _, e⟩ | ⟨hz, _, _, e⟩ | ⟨hz, _, e⟩ | ⟨_, _, e⟩ <;> rw [e]
  · exact ⟨[], by simp, .silent (by simp)⟩
  · exact hdelivered hz rfl rfl rfl
  · exact hdelivered hz rfl rfl rfl
  · exact hdelivered hz rfl rfl rfl
  · exact ⟨[], by simp, .silent (by simp)⟩

theorem codecMove_presents {s t : State} (h : s.Inv) (e : runMove (codecMove s) = .next t) :
    ∃ new, t.outputs = s.outputs ++ new ∧ Presents s t new := by
  have hnothing {u : State} (ho : u.outputs = s.outputs) : ∃ new, u.outputs = s.outputs ++ new ∧ Presents s u new :=
    ⟨[], by simp [ho], .silent (by simp)⟩
  cases codecMove_moved h e with
  | returns _ => exact hnothing (consumerReturns_outputs s)
  | waits _ | framing _ _ _ _ | stamp _ _ _ _ _ => exact hnothing rfl
  | running hc hb hp hl _ => exact carryOver_presents (.ofIterStart h hb hp hc hl) _
  | status hc hb hp hl hm =>
    obtain ⟨new, ho, hnew⟩ := carryOver_presents (.ofStatus h hb hp hc hl hm) (s.buf.read (s.i + 1))
    exact ⟨new, ho, hnew.of_same rfl rfl rfl rfl⟩
  | carried hc hb hp _ _ | bare hc hb hp _ => exact carryOver_presents (.ofLookAhead h hb hp hc) _
  | ends _ _ _ => exact ⟨[.decodeDone], rfl, .silent (by simp)⟩

/-- Every step from a good state only adds to the outputs, and what it adds is said by `Presents`. -/
theorem step_presents {s t : State} (h : s.Inv) (hstep : step s = .next t) :
    ∃ new, t.outputs = s.outputs ++ new ∧ Presents s t new := by
  cases step_taken hstep with
  | @codec rest _ e =>
    obtain ⟨new, ho, hnew⟩ := codecMove_presents (inv_withInputs h rest) e
    exact ⟨new, ho, hnew.of_same rfl rfl rfl rfl⟩
  | send e =>
    obtain ⟨new, ho, hs⟩ := exec_send_outputs e
    exact ⟨new, ho, .silent hs⟩
  | reset _ _ | register _ _ _ | decode _ _ _ | connection _ _ | unseen =>
    exact ⟨[], (List.append_nil _).symm, .silent (by simp)⟩

/-- Settles O38: an event that a step adds is the one of `Presents`. -/
theorem eventsCarryTheRegisters : Obligations.EventsCarryTheRegisters := by
  intro s t h hstep
  obtain ⟨new, ho, hnew⟩ := step_presents h hstep
  refine ⟨new, ho, ?_⟩
  cases hnew with
  | silent hs =>
    exact ⟨(countP_silent hs).trans_le (Nat.zero_le _), fun target e ok hm => by cases hs _ hm⟩
  | event hb hreg hfree hheld hm =>
    refine ⟨by simp, fun target e ok hmem => ?_⟩
    obtain ⟨rfl, rfl, rfl⟩ : target = s.consTarget ∧ e = eventOf t ∧ ok = dataOk (arity t.rs) t.d1 t.d2 := by
      simpa using hmem
    exact ⟨hb, hreg, rfl, rfl, rfl, hm, hheld, hfree⟩

/-- An event is outstanding only during a DECODE. -/
theorem busy_of_inCallback {s : State} (h : s.Inv) (hc : s.inCallback = true) : s.decBusy = true :=
  (Going.ofHolding h hc).busy

/-- Settles O46: of the steps that leave the call-out only SEND and the transport's actions are possible, and none of them writes
a register of the Decoder; no event is added because one is outstanding before the step. -/
theorem decoderWaitsForConsumer : Obligations.DecoderWaitsForConsumer := by
  intro s t h hc hstep hc'
  have hcount : t.outputs.countP isEvent = s.outputs.countP isEvent := by
    obtain ⟨new, ho, hnew⟩ := step_presents h hstep
    cases hnew with
    | silent hs => rw [ho, List.countP_append, countP_silent hs, Nat.add_zero]
    | event _ _ hfree _ _ => cases hfree.symm.trans hc
  have hb := busy_of_inCallback h hc
  cases step_taken hstep with
  | @codec rest _ e =>
    rw [codecMove_callback (s := { s with inputs := rest }) hc] at e
    cases e
    simp at hc'
  | send e =>
    rw [exec_send_keeps e] at hcount ⊢
    exact ⟨rfl, rfl, rfl, rfl, rfl, ⟨rfl, rfl, rfl, rfl⟩, rfl, hcount⟩
  | reset _ hn | register _ hn _ | decode hn _ _ => cases hn.symm.trans hb
  | connection _ _ | unseen => exact ⟨rfl, rfl, rfl, rfl, rfl, ⟨rfl, rfl, rfl, rfl⟩, rfl, rfl⟩

end Sys2Proof.Machine
end

section
/-! PROOFS. DECODE written whole (R123): what one iteration of its loop does, that each iteration which goes on moves the cursor
(R121), so that the fuel never matters, and how many events a frame yields (R119). -/
namespace Sys2Proof.Machine

section
variable {m : Memory} {n i0 : Nat} {w : Walk}

theorem Walk.dispatch_unestablished (h : w.rs = 0#8) : Walk.dispatch m n i0 w = ([], none) := if_pos h

theorem Walk.dispatch_two (ha : arity w.rs = .two) (hl : w.i + 1 < n) :
    let w' := { w with d1 := m.read w.i, d2 := m.read (w.i + 1) }
    Walk.dispatch m n i0 w = ([w'.event], some { w' with i := w.i + 2 }) := by
  have hz : w.rs ≠ 0#8 := ne_zero_of_arity (by simp [ha])
  simp only [Walk.dispatch, if_neg hz, ha, if_pos hl]

theorem Walk.dispatch_two_short (ha : arity w.rs = .two) (hl : n ≤ w.i + 1) : Walk.dispatch m n i0 w = ([], none) := by
  have hz : w.rs ≠ 0#8 := ne_zero_of_arity (by simp [ha])
  simp only [Walk.dispatch, if_neg hz, ha, if_neg (Nat.not_lt.2 hl)]

theorem Walk.dispatch_one (ha : arity w.rs = .one) (hl : w.i < n) :
    let w' := { w with d1 := m.read w.i }
    Walk.dispatch m n i0 w = ([w'.event], some { w' with i := w.i + 1 }) := by
  have hz : w.rs ≠ 0#8 := ne_zero_of_arity (by simp [ha])
  simp only [Walk.dispatch, if_neg hz, ha, if_pos hl]

theorem Walk.dispatch_one_short (ha : arity w.rs = .one) (hl : n ≤ w.i) : Walk.dispatch m n i0 w = ([], none) := by
  have hz : w.rs ≠ 0#8 := ne_zero_of_arity (by simp [ha])
  simp only [Walk.dispatch, if_neg hz, ha, if_neg (Nat.not_lt.2 hl)]

theorem Walk.dispatch_zero_stalled (ha : arity w.rs = .zero) (hi : w.i = i0) :
    Walk.dispatch m n i0 w = ([w.event], none) := by
  have hz : w.rs ≠ 0#8 := ne_zero_of_arity (by simp [ha])
  simp only [Walk.dispatch, if_neg hz, ha, if_pos hi]

theorem Walk.dispatch_zero_moved (ha : arity w.rs = .zero) (hi : w.i ≠ i0) :
    Walk.dispatch m n i0 w = ([w.event], some w) := by
  have hz : w.rs ≠ 0#8 := ne_zero_of_arity (by simp [ha])
  simp only [Walk.dispatch, if_neg hz, ha, if_neg hi]

theorem Walk.dispatch_other (hz : w.rs ≠ 0#8) (ha : arity w.rs = .other) :
    Walk.dispatch m n i0 w = ([], some { w with i := w.i + 1 }) := by
  simp only [Walk.dispatch, if_neg hz, ha]

end

/-- The start of the iteration matters only to the stall test. -/
theorem Walk.dispatch_start (m : Memory) (n : Nat) {i0 j0 : Nat} {w : Walk} (hi : w.i ≠ i0) (hj : w.i ≠ j0) :
    Walk.dispatch m n i0 w = Walk.dispatch m n j0 w := by
  simp only [Walk.dispatch, if_neg hi, if_neg hj]

/-- Steps 2 and 3 emit at most one event, and go on only with the cursor moved in them or before them. -/
theorem Walk.dispatch_bounds (m : Memory) (n i0 : Nat) (w : Walk) :
    (Walk.dispatch m n i0 w).1.length ≤ 1 ∧
      ∀ w', (Walk.dispatch m n i0 w).2 = some w' → w.i < w'.i ∨ w.i = w'.i ∧ w.i ≠ i0 := by
  by_cases hz : w.rs = 0#8
  · simp [Walk.dispatch_unestablished hz]
  · cases ha : arity w.rs with
    | two =>
      rcases Nat.lt_or_ge (w.i + 1) n with hl | hl
      · simp [Walk.dispatch_two ha hl]
      · simp [Walk.dispatch_two_short ha hl]
    | one =>
      rcases Nat.lt_or_ge w.i n with hl | hl
      · simp [Walk.dispatch_one ha hl]
      · simp [Walk.dispatch_one_short ha hl]
    | zero =>
      by_cases hi : w.i = i0
      · simp [Walk.dispatch_zero_stalled ha hi]
      · simp [Walk.dispatch_zero_moved ha hi, hi]
    | other => simp [Walk.dispatch_other hz ha]

theorem Walk.lookAhead_i (m : Memory) (n : Nat) (w : Walk) : w.i ≤ (Walk.lookAhead m n w).i := by
  unfold Walk.lookAhead
  split
  · exact Nat.le_succ w.i
  · exact Nat.le_refl w.i

theorem Walk.stepOne_i (m : Memory) (n : Nat) (w : Walk) : w.i ≤ (Walk.stepOne m n w).i := by
  unfold Walk.stepOne
  dsimp only
  split
  · refine Nat.le_trans (Nat.le_succ w.i) (Nat.le_trans (Nat.le_of_eq ?_) (Walk.lookAhead_i m n _))
    rfl
  · exact Nat.le_refl w.i

/-- One iteration of the loop from cursor `w.i`. -/
def Walk.iteration (m : Memory) (n : Nat) (w : Walk) : List Delivery × Option Walk :=
  Walk.dispatch m n w.i (Walk.stepOne m n w)

/-- An iteration that goes on has moved the cursor (R121). -/
theorem Walk.iteration_moves {m : Memory} {n : Nat} {w w' : Walk} (h : (Walk.iteration m n w).2 = some w') : w.i < w'.i := by
  have hi := Walk.stepOne_i m n w
  have := (Walk.dispatch_bounds m n w.i (Walk.stepOne m n w)).2 w' h
  omega

/-- What an iteration delivers, and all that comes after it by `f`. -/
def Walk.followed (f : Walk → List Delivery) : List Delivery × Option Walk → List Delivery
  | (es, none)   => es
  | (es, some w) => es ++ f w

theorem Walk.loop_succ {m : Memory} {n : Nat} {w : Walk} (k : Nat) (h : w.i < n) :
    Walk.loop m n (k + 1) w = Walk.followed (Walk.loop m n k) (Walk.iteration m n w) := by
  rw [Walk.loop, if_pos h, Walk.iteration]
  split <;> rename_i he <;> rw [he] <;> rfl

theorem Walk.loop_atEnd {m : Memory} {n : Nat} {w : Walk} (k : Nat) (h : n ≤ w.i) : Walk.loop m n k w = [] := by
  cases k with
  | zero => rfl
  | succ k => exact if_neg (Nat.not_lt.2 h)

/-- A loop whose fuel covers the bytes left does not depend on it. -/
theorem Walk.loop_fuel {m : Memory} {n j k : Nat} {w : Walk} (hj : n - w.i ≤ j) (hk : n - w.i ≤ k) :
    Walk.loop m n j w = Walk.loop m n k w := by
  induction j generalizing k w with
  | zero => rw [Walk.loop_atEnd 0 (by omega), Walk.loop_atEnd k (by omega)]
  | succ j ih =>
    rcases Nat.lt_or_ge w.i n with hl | hl
    · obtain ⟨k, rfl⟩ : ∃ k', k = k' + 1 := ⟨k - 1, by omega⟩
      rw [Walk.loop_succ j hl, Walk.loop_succ k hl]
      rcases hit : Walk.iteration m n w with ⟨es, _ | w'⟩
      · rfl
      · have hmoves := Walk.iteration_moves (congrArg Prod.snd hit)
        exact congrArg (es ++ ·) (ih (by omega) (by omega))
    · rw [Walk.loop_atEnd _ hl, Walk.loop_atEnd _ hl]

/-- The events still to be delivered from the start of an iteration. -/
def Walk.rest (m : Memory) (n : Nat) (w : Walk) : List Delivery := Walk.loop m n (n - w.i) w

theorem Walk.rest_atEnd {m : Memory} {n : Nat} {w : Walk} (h : n ≤ w.i) : Walk.rest m n w = [] := Walk.loop_atEnd _ h

theorem Walk.rest_inside {m : Memory} {n : Nat} {w : Walk} (h : w.i < n) :
    Walk.rest m n w = Walk.followed (Walk.rest m n) (Walk.iteration m n w) := by
  rw [Walk.rest, show n - w.i = n - w.i - 1 + 1 by omega, Walk.loop_succ _ h]
  rcases hit : Walk.iteration m n w with ⟨es, _ | w'⟩
  · rfl
  · have hmoves := Walk.iteration_moves (congrArg Prod.snd hit)
    exact congrArg (es ++ ·) (Walk.loop_fuel (by omega) (by omega))

/-- One event a byte at most (R119). -/
theorem Walk.loop_length (m : Memory) (n k : Nat) (w : Walk) : (Walk.loop m n k w).length ≤ n - w.i := by
  induction k generalizing w with
  | zero => exact Nat.zero_le _
  | succ k ih =>
    rcases Nat.lt_or_ge w.i n with hl | hl
    · rw [Walk.loop_succ k hl]
      have hone := (Walk.dispatch_bounds m n w.i (Walk.stepOne m n w)).1
      rw [← Walk.iteration] at hone
      rcases hit : Walk.iteration m n w with ⟨es, _ | w'⟩
      · rw [hit] at hone
        exact Nat.le_trans hone (by omega)
      · have hmoves := Walk.iteration_moves (congrArg Prod.snd hit)
        have := ih w'
        rw [hit] at hone
        simp only [Walk.followed, List.length_append] at hone ⊢
        omega
    · rw [Walk.loop_atEnd _ hl]
      exact Nat.zero_le _

theorem decodedEvents_length (consumer : Bool) (m : Memory) (n : Nat) :
    (decodedEvents consumer m n).length ≤ if n < 3 then 0 else n - 1 := by
  unfold decodedEvents
  split
  · exact Nat.le_refl 0
  · split
    · exact Nat.zero_le _
    · exact Walk.loop_length m n n _

end Sys2Proof.Machine
end

section
/-! PROOFS. The stepping machine against the loop (40_decoder_walk.md): the transactions that a state has still to present are
the same before and after each of the codec's own moves. -/
namespace Sys2Proof.Machine

open Sys2Proof.Expect

/-- The registers of an invocation in a state. -/
def walkOf (s : State) : Walk where
  rs        := s.rs
  tsHigh    := s.tsHigh
  tsLowPrev := s.tsLowPrev
  tsLowSeen := s.tsLowSeen
  ts        := s.ts
  d1        := s.d1
  d2        := s.d2
  i         := s.i

/-- The events to come from steps 2 and 3 of an iteration that began at `i0`, and from the iterations after it. -/
def dispatchToCome (i0 : Nat) (s : State) : List Delivery :=
  Walk.followed (Walk.rest s.buf s.len) (Walk.dispatch s.buf s.len i0 (walkOf s))

/-- The events to come from a state in which none is outstanding. In the look-ahead the cursor is not at the start of its
iteration, whatever that was; 0 stands for it. -/
def eventsToCome (s : State) : List Delivery :=
  match s.phase with
  | .framing   => Walk.rest s.buf s.len (Walk.init (s.buf.read 0))
  | .iterStart => Walk.rest s.buf s.len (walkOf s)
  | .lookAhead =>
    Walk.followed (Walk.rest s.buf s.len)
      (Walk.dispatch s.buf s.len 0 (Walk.lookAhead s.buf s.len (walkOf s)))
  | .walkEnded => []

/-- A delivery as a transaction of the consumer port. -/
def toTarget (target : Nat) (d : Delivery) : Output := .event target d.1 d.2

/-- Everything a busy codec has presented when its DECODE is over: what it has by now, what is to come (from where the walk
resumes, if an event is outstanding), and the completion. -/
def presentedAtEnd (s : State) : List Output :=
  s.outputs ++ (eventsToCome (if s.inCallback then consumerReturns s else s)).map (toTarget s.consTarget) ++ [.decodeDone]

theorem presentedAtEnd_free {s : State} (h : s.inCallback = false) :
    presentedAtEnd s = s.outputs ++ (eventsToCome s).map (toTarget s.consTarget) ++ [.decodeDone] := by
  simp [presentedAtEnd, h]

theorem presentedAtEnd_held {s : State} (h : s.inCallback = true) :
    presentedAtEnd s = s.outputs ++ (eventsToCome (consumerReturns s)).map (toTarget s.consTarget) ++ [.decodeDone] := by
  simp [presentedAtEnd, h]

theorem presentedAtEnd_consumerReturns {s : State} (h : s.inCallback = true) :
    presentedAtEnd (consumerReturns s) = presentedAtEnd s := by
  rw [presentedAtEnd_held h, presentedAtEnd_free (consumerReturns_inCallback s), consumerReturns_outputs,
    consumerReturns_consTarget]

theorem eventsToCome_walkEnded {s : State} (h : s.phase = .walkEnded) : eventsToCome s = [] := by
  simp [eventsToCome, h]

theorem eventsToCome_iterStart {s : State} (h : s.phase = .iterStart) :
    eventsToCome s = Walk.rest s.buf s.len (walkOf s) := by
  simp [eventsToCome, h]

/-- A delivery puts its event before what is to come when the consumer returns. -/
theorem presentedAtEnd_emit {s : State} {es : List Delivery} (h : eventsToCome (consumerReturns (emit s)) = es) :
    presentedAtEnd (emit s) =
      s.outputs ++ ((walkOf s).event :: es).map (toTarget s.consTarget) ++ [.decodeDone] := by
  rw [presentedAtEnd_held rfl, h, emit_outputs, List.append_assoc s.outputs]
  rfl

/-- Steps 2 and 3 of the machine present what the dispatch of the loop delivers. -/
theorem presentedAtEnd_carryOver {s : State} (h : Going s) {i0 : Nat} (hi : s.i = i0 ↔ s.phase = .iterStart) {b : Byte}
    (hb : s.i < s.len → b = s.buf.read s.i) :
    presentedAtEnd (carryOver b s) =
      s.outputs ++ (dispatchToCome i0 s).map (toTarget s.consTarget) ++ [.decodeDone] := by
  have hended : presentedAtEnd (endWalk s) = s.outputs ++ [].map (toTarget s.consTarget) ++ [.decodeDone] :=
    presentedAtEnd_free (s := endWalk s) h.quiet
  unfold dispatchToCome
  rcases carryOver_cases b s with ⟨e, hz | ⟨ha, hl⟩ | ⟨ha, hl⟩⟩ | ⟨_, ha, hl, e⟩ | ⟨_, ha, hl, e⟩ | ⟨_, ha, e⟩ | ⟨hz, ha, e⟩ <;>
    rw [e]
  · rw [Walk.dispatch_unestablished (w := walkOf s) hz]
    exact hended
  · rw [Walk.dispatch_two_short (w := walkOf s) ha hl]
    exact hended
  · rw [Walk.dispatch_one_short (w := walkOf s) ha hl]
    exact hended
  · obtain rfl := hb (by omega)
    rw [Walk.dispatch_two (w := walkOf s) ha hl]
    refine presentedAtEnd_emit (congrArg eventsToCome (consumerReturns_two _ ?_))
    exact ha
  · obtain rfl := hb hl
    rw [Walk.dispatch_one (w := walkOf s) ha hl]
    refine presentedAtEnd_emit (congrArg eventsToCome (consumerReturns_one _ ?_))
    exact ha
  · by_cases hp : s.phase = .iterStart
    · rw [Walk.dispatch_zero_stalled (w := walkOf s) ha (hi.2 hp)]
      exact presentedAtEnd_emit (congrArg eventsToCome (consumerReturns_zero_stalled (emit s) ha hp))
    · rw [Walk.dispatch_zero_moved (w := walkOf s) ha (mt hi.1 hp)]
      exact presentedAtEnd_emit (congrArg eventsToCome (consumerReturns_zero_moved (emit s) ha hp))
  · rw [Walk.dispatch_other (w := walkOf s) hz ha]
    exact presentedAtEnd_free (s := endIteration 1 s) h.quiet

theorem Walk.lookAhead_status {m : Memory} {n : Nat} {w : Walk} (hl : w.i < n) (hm : (m.read w.i).msb = true) :
    Walk.lookAhead m n w = { w with rs := m.read w.i, i := w.i + 1 } := if_pos ⟨hl, hm⟩

theorem Walk.lookAhead_none {m : Memory} {n : Nat} {w : Walk} (h : w.i < n → (m.read w.i).msb = false) :
    Walk.lookAhead m n w = w := if_neg fun ⟨hl, hm⟩ => by simp [h hl] at hm

theorem Walk.stepOne_data {m : Memory} {n : Nat} {w : Walk} (h : (m.read w.i).msb = false) : Walk.stepOne m n w = w := by
  simp [Walk.stepOne, h]

/-- The wrap-around test as the loop writes it. -/
theorem nextTsHigh_loop (s : State) (low : StampLow) :
    nextTsHigh s low = if s.tsLowSeen = true ∧ low ≤ s.tsLowPrev then s.tsHigh + 128#16 else s.tsHigh := by
  simp [nextTsHigh, wraps, Config.lowCycle]

/-- Step 1 of the loop on a timestamp byte is that of the machine, and the look-ahead after it (R107 to R111). -/
theorem stepOne_walkOf {s : State} (h : (s.buf.read s.i).msb = true) :
    Walk.stepOne s.buf s.len (walkOf s) =
      Walk.lookAhead s.buf s.len (walkOf (timestampByte ((s.buf.read s.i).extractLsb' 0 7) s)) := by
  rw [walkOf, timestampByte, nextTsHigh_loop]
  exact if_pos h

theorem eventsToCome_lookAhead {s : State} (h : s.phase = .lookAhead) :
    eventsToCome s = Walk.followed (Walk.rest s.buf s.len)
      (Walk.dispatch s.buf s.len 0 (Walk.lookAhead s.buf s.len (walkOf s))) := by
  simp [eventsToCome, h]

/-- The events to come at the start of an iteration inside the frame are those of its steps 2 and 3 and of what follows. -/
theorem eventsToCome_iteration {s : State} (hp : s.phase = .iterStart) (hl : s.i < s.len) :
    eventsToCome s = Walk.followed (Walk.rest s.buf s.len)
      (Walk.dispatch s.buf s.len s.i (Walk.stepOne s.buf s.len (walkOf s))) :=
  (eventsToCome_iterStart hp).trans (Walk.rest_inside hl)

theorem eventsToCome_timestampByte {s : State} (hp : s.phase = .iterStart) (hl : s.i < s.len)
    (hm : (s.buf.read s.i).msb = true) :
    eventsToCome (timestampByte ((s.buf.read s.i).extractLsb' 0 7) s) = eventsToCome s := by
  rw [eventsToCome_iteration hp hl, stepOne_walkOf hm, eventsToCome_lookAhead rfl, timestampByte_buf, timestampByte_len]
  have hmoved : s.i + 1 ≤ _ :=
    Walk.lookAhead_i s.buf s.len (walkOf (timestampByte ((s.buf.read s.i).extractLsb' 0 7) s))
  rw [Walk.dispatch_start s.buf s.len (j0 := s.i) (by omega) (by omega)]

theorem eventsToCome_framingByte {s : State} (hp : s.phase = .framing) (hrs : s.rs = 0#8) :
    eventsToCome (framingByte ((s.buf.read 0).extractLsb' 0 6) s) = eventsToCome s := by
  simp [eventsToCome, hp, walkOf, Walk.init, hrs]

/-- A message run in `u` keeps what will have been presented, when its steps 2 and 3 are what is to come in `s`. -/
theorem presentedAtEnd_message {s u : State} (hu : Going u) (i0 : Nat) {b : Byte} (hi : u.i = i0 ↔ u.phase = .iterStart)
    (hbyte : u.i < u.len → b = u.buf.read u.i) (hc : s.inCallback = false) (ho : u.outputs = s.outputs)
    (ht : u.consTarget = s.consTarget) (hev : dispatchToCome i0 u = eventsToCome s) :
    (carryOver b u).decBusy = true ∧ presentedAtEnd (carryOver b u) = presentedAtEnd s := by
  refine ⟨carryOver_keeps.2.2.2.2.2.trans hu.busy, ?_⟩
  rw [presentedAtEnd_carryOver hu hi hbyte, presentedAtEnd_free hc, ho, ht, hev]

/-- A move of a busy codec keeps what will have been presented at the end, and the move that ends the DECODE has presented it. -/
theorem codecMove_presentedAtEnd {s t : State} (h : s.Inv) (hb : s.decBusy = true) (e : runMove (codecMove s) = .next t) :
    (t.decBusy = true ∧ presentedAtEnd t = presentedAtEnd s) ∨ (t.decBusy = false ∧ t.outputs = presentedAtEnd s) := by
  cases codecMove_moved h e with
  | returns hc => exact .inl ⟨(consumerReturns_decBusy s).trans hb, presentedAtEnd_consumerReturns hc⟩
  | waits hn => cases hn.symm.trans hb
  | framing hc _ hp _ =>
    have hrs := (h.framing hp).2.2.1
    rw [presentedAtEnd_free hc, presentedAtEnd_free (s := framingByte _ s) hc, eventsToCome_framingByte hp hrs]
    exact .inl ⟨hb, rfl⟩
  | stamp hc _ hp hl hm =>
    rw [presentedAtEnd_free hc, presentedAtEnd_free (s := timestampByte _ s) hc, eventsToCome_timestampByte hp hl hm]
    exact .inl ⟨hb, rfl⟩
  | running hc _ hp hl hm =>
    refine .inl (presentedAtEnd_message (.ofIterStart h hb hp hc hl) s.i (by simp [hp]) (fun _ => rfl) hc rfl rfl ?_)
    rw [eventsToCome_iteration hp hl, Walk.stepOne_data (w := walkOf s) hm, dispatchToCome]
  | status hc _ hp hl hm =>
    refine .inl (presentedAtEnd_message (.ofStatus h hb hp hc hl hm) 0 (by simp) (fun _ => rfl) hc rfl rfl ?_)
    rw [eventsToCome_lookAhead hp, Walk.lookAhead_status (w := walkOf s) hl hm, dispatchToCome]
    rfl
  | carried hc _ hp hl hm =>
    have hi : s.i ≠ 0 := Nat.ne_zero_of_lt (h.look hp).2.1
    refine .inl (presentedAtEnd_message (.ofLookAhead h hb hp hc) 0 (by simp [hp, hi]) (fun _ => rfl) hc rfl rfl ?_)
    rw [eventsToCome_lookAhead hp, Walk.lookAhead_none (w := walkOf s) fun _ => hm, dispatchToCome]
  | bare hc _ hp hl =>
    have hi : s.i ≠ 0 := Nat.ne_zero_of_lt (h.look hp).2.1
    have hend {P : Prop} (hl' : s.i < s.len) : P := absurd hl' (Nat.not_lt.2 hl)
    refine .inl (presentedAtEnd_message (.ofLookAhead h hb hp hc) 0 (by simp [hp, hi]) hend hc rfl rfl ?_)
    rw [eventsToCome_lookAhead hp, Walk.lookAhead_none (w := walkOf s) hend, dispatchToCome]
  | ends hc _ hp =>
    have hev : eventsToCome s = [] := by
      rcases hp with hp | ⟨hp, hl⟩
      · exact eventsToCome_walkEnded hp
      · exact (eventsToCome_iterStart hp).trans (Walk.rest_atEnd hl)
    exact .inr ⟨rfl, by simp [presentedAtEnd_free hc, hev]⟩

end Sys2Proof.Machine
end

section
/-! PROOFS. Every DECODE ends (R121, R122; the consumer's return is log 5): each of the codec's moves leaves fewer to be made. -/
namespace Sys2Proof.Machine

open Sys2Proof.Expect

/-- How many moves of the codec a DECODE can still take: one to end the invocation, and three for every byte left, less what has
been done of the present iteration. -/
def movesLeft (s : State) : Nat :=
  if s.decBusy then
    match s.phase with
    | .framing   => 3 * s.len
    | .iterStart => 3 * (s.len - s.i) + if s.inCallback then 0 else 1
    | .lookAhead => 3 * (s.len - s.i) + if s.inCallback then 2 else 3
    | .walkEnded => 1
  else 0

theorem movesLeft_le {s : State} (h : s.Inv) : movesLeft s ≤ 3 * s.len + 2 := by
  have hstart (hp : s.phase = .iterStart) := h.walkCursor (.inl hp)
  have hlook (hp : s.phase = .lookAhead) := h.look hp
  unfold movesLeft
  split
  · split
    case h_1 => omega
    case h_2 hp =>
      have := hstart hp
      split <;> omega
    case h_3 hp =>
      have := hlook hp
      split <;> omega
    case h_4 => omega
  · exact Nat.zero_le _

/-- A delivery is one move, and so is every other outcome of steps 2 and 3. -/
theorem movesLeft_emit {s : State} (h : Going s) (a b : Byte) :
    movesLeft (emit { s with d1 := a, d2 := b }) < movesLeft s := by
  rcases h.walk with hp | hp <;> simp [movesLeft, hp, h.busy, h.quiet]

theorem movesLeft_endWalk {s : State} (h : Going s) : movesLeft (endWalk s) < movesLeft s := by
  rcases h.walk with hp | hp
  · have := h.fresh hp
    simp [movesLeft, hp, h.busy, h.quiet]
    omega
  · simp [movesLeft, hp, h.busy, h.quiet]

theorem movesLeft_endIteration {s : State} (h : Going s) : movesLeft (endIteration 1 s) < movesLeft s := by
  rcases h.walk with hp | hp
  · have := h.fresh hp
    simp [movesLeft, hp, h.busy, h.quiet]
    omega
  · simp [movesLeft, hp, h.busy, h.quiet]
    omega

theorem movesLeft_carryOver {s : State} (h : Going s) (b : Byte) : movesLeft (carryOver b s) < movesLeft s := by
  rcases carryOver_cases b s with ⟨e, _⟩ | ⟨_, _, _, e⟩ | ⟨_, _, _, e⟩ | ⟨_, _, e⟩ | ⟨_, _, e⟩ <;> rw [e]
  · exact movesLeft_endWalk h
  · exact movesLeft_emit h _ _
  · exact movesLeft_emit h b s.d2
  · exact movesLeft_emit h s.d1 s.d2
  · exact movesLeft_endIteration h

/-- Taking a status byte is no move of its own. -/
theorem movesLeft_loadStatus {s : State} (hp : s.phase = .lookAhead) (b : Byte) :
    movesLeft (loadStatus b s) ≤ movesLeft s := by
  cases hb : s.decBusy with
  | true =>
    simp only [movesLeft, hp, hb, loadStatus_decBusy, loadStatus_phase, loadStatus_len, loadStatus_i,
      loadStatus_inCallback, if_true]
    exact Nat.add_le_add_right (by omega) _
  | false => simp [movesLeft, hb]

theorem movesLeft_consumerReturns {s : State} (h : s.Inv) (hc : s.inCallback = true) :
    movesLeft (consumerReturns s) < movesLeft s := by
  have hb := busy_of_inCallback h hc
  have hg := Going.ofHolding h hc
  rcases consumerReturns_cases h hc with ⟨_, hl, e⟩ | ⟨_, hl, e⟩ | ⟨_, hp, hl, e⟩ | ⟨_, hp, hl, e⟩ <;> rw [e]
  · rcases hg.walk with hp | hp <;> simp [movesLeft, show s.phase = _ from hp, hb, hc] <;> omega
  · rcases hg.walk with hp | hp <;> simp [movesLeft, show s.phase = _ from hp, hb, hc] <;> omega
  · simp [movesLeft, hp, hb, hc]
    omega
  · simp [movesLeft, hp, hb, hc]

/-- Every move of a busy codec leaves fewer. -/
theorem codecMove_movesLeft {s t : State} (h : s.Inv) (hb : s.decBusy = true) (e : runMove (codecMove s) = .next t) :
    movesLeft t < movesLeft s := by
  cases codecMove_moved h e with
  | returns hc => exact movesLeft_consumerReturns h hc
  | waits hn => cases hn.symm.trans hb
  | framing hc _ hp hl | stamp hc _ hp hl _ =>
    simp [movesLeft, hp, hb, hc]
    omega
  | running hc _ hp hl _ => exact movesLeft_carryOver (.ofIterStart h hb hp hc hl) _
  | status hc _ hp hl hm =>
    exact (movesLeft_carryOver (.ofStatus h hb hp hc hl hm) _).trans_le (movesLeft_loadStatus hp _)
  | carried hc _ hp _ _ | bare hc _ hp _ => exact movesLeft_carryOver (.ofLookAhead h hb hp hc) _
  | ends hc _ hp => rcases hp with hp | ⟨hp, _⟩ <;> simp [movesLeft, hp, hb, hc]

/-- A DECODE taken up in `s` is over in `t`: a good idle state with nothing pending, the registration as it was, and everything
presented that was to come. -/
structure DecodeOver (s t : State) : Prop where
  inv : t.Inv
  idle : t.decBusy = false
  quiet : t.inputs = []
  consReg : t.consReg = s.consReg
  consTarget : t.consTarget = s.consTarget
  outputs : t.outputs = presentedAtEnd s

/-- With the hosts quiet a DECODE is over within the moves left. -/
theorem reaches_decodeOver {s : State} (h : s.Inv) (hb : s.decBusy = true) (hi : s.inputs = []) :
    ∃ k t, k ≤ movesLeft s ∧ reaches k s t ∧ DecodeOver s t := by
  induction hn : movesLeft s using Nat.strong_induction_on generalizing s with
  | _ n ih =>
    obtain ⟨t, e, -⟩ := codecMove_answers h
    have hstep : step s = .next t := (step_quiet hi).trans e
    have hinv : t.Inv := inv_codecMove h e
    have hless := codecMove_movesLeft h hb e
    obtain ⟨⟨-, hreg, htarget, -, hinputs, -⟩, -⟩ := codecMove_frame e
    have hquiet : t.inputs = [] := hinputs.trans hi
    rcases codecMove_presentedAtEnd h hb e with ⟨hb', hout⟩ | ⟨hidle, hout⟩
    · obtain ⟨k, u, hk, hrun, hu⟩ := ih (movesLeft t) (hn ▸ hless) hinv hb' hquiet rfl
      exact ⟨k + 1, u, by omega, run_succ hstep hrun,
        { hu with
          consReg := hu.consReg.trans hreg
          consTarget := hu.consTarget.trans htarget
          outputs := hu.outputs.trans hout }⟩
    · exact ⟨1, t, by omega, run_succ hstep rfl, ⟨hinv, hidle, hquiet, hreg, htarget, hout⟩⟩

/-- Settles O40: the moves left are at most three a byte and two more. -/
theorem decodeAlwaysEnds : Obligations.DecodeAlwaysEnds := by
  intro s h hb hi
  obtain ⟨k, t, hk, hrun, hover⟩ := reaches_decodeOver h hb hi
  obtain ⟨hrs, -, hc, -⟩ := hover.inv.idle hover.idle
  exact ⟨k, t, hk.trans (movesLeft_le h), hrun, hover.idle, hrs, hc⟩

end Sys2Proof.Machine
end

section
/-! PROOFS. A DECODE request from the idle codec to the idle codec (R123, R119, R122, R179): one step that takes the request, and
the run to its end. -/
namespace Sys2Proof.Machine

open Sys2Proof.Expect

/-- What will have been presented when a request is taken is what the loop delivers for its frame. -/
theorem presentedAtEnd_afterDecode {s : State} (hc : s.inCallback = false) (bytes : List Byte) (n : Nat) :
    presentedAtEnd (afterDecode bytes n s) = s.outputs ++
      (decodedEvents s.consReg (Memory.ofBytes (bytes.take n)) n).map (toTarget s.consTarget) ++ [.decodeDone] := by
  have hev : eventsToCome (afterDecode bytes n s) = decodedEvents s.consReg (Memory.ofBytes (bytes.take n)) n := by
    by_cases hchecks : entryChecks n s
    · obtain ⟨hn, hreg⟩ := hchecks
      have hn : 3 ≤ n := hn
      rw [decodedEvents, if_neg (Nat.not_lt.2 hn), hreg, eventsToCome, afterDecode, if_pos ⟨hn, hreg⟩]
      exact Walk.loop_fuel (Nat.le_refl _) (Nat.sub_le n 1)
    · rw [eventsToCome_walkEnded (if_neg hchecks), decodedEvents]
      split
      · rfl
      · rename_i hn
        rw [if_pos]
        simpa [Config.minLen, Nat.not_lt.1 hn] using hchecks
  rw [presentedAtEnd_free (s := afterDecode bytes n s) hc, hev]
  rfl

/-- A request that keeps the duties, on an idle codec, runs to its end. -/
theorem reaches_of_decodePending {bytes : List Byte} {n : Nat} {s : State} (h : decodePending s bytes n) :
    ∃ k t, reaches k s t ∧ t.Inv ∧ t.decBusy = false ∧ t.inputs = [] ∧ t.consReg = s.consReg ∧
      t.consTarget = s.consTarget ∧ t.outputs = s.outputs ++
        (decodedEvents s.consReg (Memory.ofBytes (bytes.take n)) n).map (toTarget s.consTarget) ++ [.decodeDone] := by
  obtain ⟨hinv, hidle, hi, hm, hl⟩ := h
  have hc : s.inCallback = false := (hinv.idle hidle).2.2.1
  have hstep : step s = .next (afterDecode bytes n { s with inputs := [] }) := by
    rw [step_host hi]
    rcases requestDecode_cases bytes n { s with inputs := [] } with
      ⟨_, _, _, e⟩ | ⟨hb, _⟩ | ⟨_, hm', _⟩ | ⟨_, _, hl', _⟩
    · exact e
    · cases hidle.symm.trans hb
    · exact absurd hm (Nat.not_le.2 hm')
    · exact absurd hl (Nat.not_le.2 hl')
  obtain ⟨k, t, -, hrun, hover⟩ :=
    reaches_decodeOver (inv_afterDecode (inv_withInputs hinv []) hidle hm hl) rfl rfl
  exact ⟨k + 1, t, run_succ hstep hrun, hover.inv, hover.idle, hover.quiet, hover.consReg, hover.consTarget,
    hover.outputs.trans (presentedAtEnd_afterDecode (s := { s with inputs := [] }) hc bytes n)⟩

/-- Settles O41: the run of `reaches_of_decodePending`. -/
theorem decodeRefinesPseudocode : Obligations.DecodeRefinesPseudocode := by
  intro bytes n s h
  obtain ⟨k, t, hrun, hinv, hidle, -, hreg, htarget, hout⟩ := reaches_of_decodePending h
  exact ⟨k, t, hrun, hidle, (hinv.idle hidle).1, hreg, htarget, hout⟩

/-- An idle codec with nothing asked of it stays as it is. -/
theorem run_idle {s : State} (h : s.Inv) (hidle : s.decBusy = false) (hi : s.inputs = []) (k : Nat) : reaches k s s := by
  induction k with
  | zero => rfl
  | succ k ih => exact run_succ (step_idle hi (h.idle hidle).2.2.1 hidle) ih

/-- The second part of a run. -/
theorem run_split {j k : Nat} {s u t : State} (hj : reaches j s u) (h : reaches (j + k) s t) : reaches k u t := by
  induction j generalizing s with
  | zero =>
    cases hj
    rwa [Nat.zero_add] at h
  | succ j ih =>
    obtain ⟨v, hv, hj⟩ := run_succ_inv hj
    rw [Nat.succ_add] at h
    obtain ⟨v', hv', h⟩ := run_succ_inv h
    cases hv.symm.trans hv'
    exact ih hj h

/-- A run from a good state ends in one, and has only added to the outputs. -/
theorem run_inv_outputs {k : Nat} {s t : State} (h : s.Inv) (hrun : reaches k s t) :
    t.Inv ∧ ∃ new, t.outputs = s.outputs ++ new := by
  induction k generalizing s with
  | zero =>
    cases hrun
    exact ⟨h, [], (List.append_nil _).symm⟩
  | succ k ih =>
    obtain ⟨u, hstep, hrun⟩ := run_succ_inv hrun
    obtain ⟨added, ho, -⟩ := step_presents h hstep
    obtain ⟨hinv, new, hnew⟩ := ih (stepKeepsInvariant s u h hstep) hrun
    exact ⟨hinv, added ++ new, by rw [hnew, ho, List.append_assoc]⟩

/-- Settles O42: whatever point of the run is looked at, the run goes on to its end, where all the events are those of the loop. -/
theorem frameYieldsFewerEventsThanBytes : Obligations.FrameYieldsFewerEventsThanBytes := by
  intro bytes n s h k t hrun
  obtain ⟨K, u, hend, hinv, hidle, hi, -, -, hout⟩ := reaches_of_decodePending h
  have hrest : reaches K t u := run_split hrun (Nat.add_comm K k ▸ run_trans hend (run_idle hinv hidle hi k))
  obtain ⟨-, new, hnew⟩ := run_inv_outputs (run_inv_outputs h.1 hrun).1 hrest
  have hcount := decodedEvents_length s.consReg (Memory.ofBytes (bytes.take n)) n
  calc t.outputs.countP isEvent
      ≤ u.outputs.countP isEvent := by rw [hnew, List.countP_append]; exact Nat.le_add_right _ _
    _ ≤ s.outputs.countP isEvent + (decodedEvents s.consReg (Memory.ofBytes (bytes.take n)) n).length := by
      rw [hout, List.countP_append, List.countP_append]
      have := List.countP_le_length (p := isEvent)
        (l := (decodedEvents s.consReg (Memory.ofBytes (bytes.take n)) n).map (toTarget s.consTarget))
      rw [List.length_map] at this
      simpa using this
    _ ≤ _ := Nat.add_le_add_left hcount _

/-- Settles O43: both present what the loop delivers, and the one that is over first waits for the other. -/
theorem decodingIsIdempotent : Obligations.DecodingIsIdempotent := by
  intro bytes n s u hs hu hreg htarget
  obtain ⟨j, t, hj, tinv, tidle, tquiet, -, -, tout⟩ := reaches_of_decodePending hs
  obtain ⟨k, v, hk, vinv, vidle, vquiet, -, -, vout⟩ := reaches_of_decodePending hu
  refine ⟨j + k, t, v, _, run_trans hj (run_idle tinv tidle tquiet k),
    Nat.add_comm k j ▸ run_trans hk (run_idle vinv vidle vquiet j), tquiet, vquiet, tidle, vidle,
    tout.trans (List.append_assoc ..), ?_⟩
  rw [vout, hreg, htarget, List.append_assoc]

/-- Step 1 on a frame of the Encoder: a timestamp byte of low 0 under an accumulator of 0, and the command as status. -/
theorem stepOne_encoderFrame {command : Byte} (d1 d2 : Byte) (hm : command.msb = true) :
    Walk.stepOne (Memory.ofBytes [0x80#8, 0x80#8, command, d1, d2]) 5 (Walk.init 0x80#8) =
      { Walk.init 0x80#8 with rs := command, tsLowSeen := true, i := 3 } := by
  have h1 : (0x80#8 : Byte).msb = true := rfl
  simp [Walk.stepOne, Walk.lookAhead, Walk.init, Memory.read_ofBytes, hm, h1]

/-- A frame of the Encoder for a two-data command is one iteration of the loop, with one event (R179 c). -/
theorem decodedEvents_twoDataFrame {command : Byte} (d1 d2 : Byte) (ha : arity command = .two) :
    decodedEvents true (Memory.ofBytes [0x80#8, 0x80#8, command, d1, d2]) 5 =
      [(⟨0x80#8, 0#16, command, d1, d2⟩, !d1.msb && !d2.msb)] := by
  have hm : command.msb = true := msb_of_arity (by simp [ha])
  have hfirst : (Memory.ofBytes [0x80#8, 0x80#8, command, d1, d2]).read 0 = 0x80#8 := Memory.read_ofBytes 0 _
  rw [decodedEvents, if_neg (by decide), if_neg (by decide), hfirst, Walk.loop_succ 4 (by decide), Walk.iteration,
    stepOne_encoderFrame d1 d2 hm, Walk.dispatch_two (by exact ha) (Nat.lt_succ_self 4), Walk.followed,
    Walk.loop_atEnd _ (Nat.le_refl 5)]
  simp [Walk.event, Walk.init, dataOk, isHigh, ha, Memory.read_ofBytes]

/-- Settles O44: the run delivers the one event of the loop. -/
theorem twoDataFramesReadBack : Obligations.TwoDataFramesReadBack := by
  intro command d1 d2 s ha hreg h
  obtain ⟨k, t, hrun, -, hidle, -, -, -, hout⟩ := reaches_of_decodePending h
  refine ⟨k, t, hrun, hidle, ?_⟩
  rw [hout, hreg, List.take_of_length_le (by simp), decodedEvents_twoDataFrame d1 d2 ha, List.append_assoc]
  rfl

end Sys2Proof.Machine
end
